-- ==== Sys2Proof/Word.lean ====
section
/-! DEFINITION. The byte, the five receiver states, and the alphabets of the event-level interface
(spec R8, R9, R14): what the world may present to the block. -/

namespace Sys2Proof

/-- R9: an 8-bit unsigned value. The block only compares bytes for equality. -/
abbrev Byte := BitVec 8

/-- R14: the five values of `rx_state`. The 3-bit codes `0b101` to `0b111` have no constructor. -/
inductive RxState where
  | hunt | ctrl | body | esc | closed
  deriving DecidableEq, Repr

/-- R8: one event of the RX stream. -/
inductive RxEvent where
  | byte (b : Byte)
  | timeout
  deriving DecidableEq, Repr

/-- R8: one transmit command. -/
inductive TxCmd where
  | encode (cc : Byte) (payload : List Byte)
  | ack
  | nak
  deriving DecidableEq, Repr

/-- R8: everything that can be presented to the block, one entry per step (log entry 2).
`wire cc p` is the pseudo-operation `WIRE(cc; p)` of R53: all the bytes of one wire frame. -/
inductive Input where
  | event (e : RxEvent)
  | wire (cc : Byte) (payload : List Byte)
  | tx (c : TxCmd)
  | rxReset
  | hardReset
  deriving DecidableEq, Repr

end Sys2Proof
end

