-- ==== Sys2Proof/Config.lean ====
section
/-! DEFINITION. The two static parameters of the block (spec R7). The spec is deterministic once they are
fixed, so there is no free value. -/

namespace Sys2Proof

/-- R7, R75: what a byte other than `DLE` or `ETX` does in state ESC. -/
inductive EscPolicy where
  | reject | ignore
  deriving DecidableEq, Repr

/-- R7: `ESC_POLICY` and `PAYLOAD_MAX` (`none` is `unbounded`), with the defaults of R7. -/
structure Config where
  escPolicy  : EscPolicy := .reject
  payloadMax : Option Nat := none
  deriving DecidableEq, Repr

end Sys2Proof
end

