-- ==== Sys2Proof/Machine/State.lean ====
section
/-! DEFINITION. The machine's state as plain data (spec R7, R13, R23, R25, R27), its outputs (R8), the two
reason types of a stop, and the state after reset (R23, R121). -/

namespace Sys2Proof.Machine

/-- R103: the three kinds of `DecodeError`. R111: no numeric codes. -/
inductive ErrorKind where
  | unexpectedControlCode | unknownEscape | payloadOverrun
  deriving DecidableEq, Repr

/-- R8: the output of an RX step, exactly one per step. -/
inductive RxOut where
  | none
  | frame (cc : Byte) (payload : List Byte)
  | busReset
  | decodeError (kind : ErrorKind) (b : Byte)
  | timeout
  deriving DecidableEq, Repr

/-- No step of the block faults (R138: "The block never stalls and never refuses an event"), so there is no
reason to list: what the spec calls errors are values of `RxOut`. Safe. -/
inductive Fault where
  deriving DecidableEq, Repr

/-- Raised by `exec` for an instruction without a meaning, and by nothing else. Safe: the model stops. -/
inductive Refusal where
  /-- Raised by a refused arm of `exec`, of which there is none now. Safe. -/
  | notModelled (mnemonic : String)
  deriving DecidableEq, Repr

/-- The four registers of R13, the parameters of R7, and the streams the block meets. -/
structure State where
  /-- R14: where the receiver is in the frame grammar; what decodes the next event. -/
  rxState : RxState
  /-- R15: the control code of the frame in progress or last closed. -/
  rxCc : Byte
  /-- R16, R28: the unstuffed payload of the frame in progress or last closed. -/
  rxBuf : List Byte
  /-- R17: the last closed frame was followed by `NAK`. -/
  rxRejected : Bool
  /-- R7: `ESC_POLICY` and `PAYLOAD_MAX`, static (log entry 1). -/
  cfg : Config
  /-- R8, R25: what has been presented and not yet taken, oldest first (log entry 2). -/
  inputs : List Input
  /-- R27: the bytes put on the TX stream, oldest first. -/
  txStream : List Byte
  /-- R8, R117: the outputs of the RX steps so far, oldest first; no rule reads them (log entry 3). -/
  outcomes : List RxOut
  deriving DecidableEq, Repr

/-- The four registers as one value: what the host can read (R100). -/
structure RxRegs where
  state    : RxState
  cc       : Byte
  buf      : List Byte
  rejected : Bool
  deriving DecidableEq, Repr

/-- R23, R121: the registers at their stated values, nothing presented, nothing emitted, no outcome; the
parameters at the defaults of R7. -/
def State.reset : State where
  rxState := .hunt
  rxCc := 0x00#8
  rxBuf := []
  rxRejected := false
  cfg := { escPolicy := .reject, payloadMax := none }
  inputs := []
  txStream := []
  outcomes := []

/-- The outcome type of a meaning. -/
abbrev Result := Host.Outcome State Fault Refusal

end Sys2Proof.Machine
end

