-- ==== Sys2Proof/Machine/Flags.lean ====
section
/-! DEFINITION. The block's one flag, `rx_rejected` (spec R17): one operation sets it, one clears it. -/

namespace Sys2Proof.Machine

/-- R17, R90: set by `CLOSED.NAK` alone. -/
def setRejected (s : State) : State := { s with rxRejected := true }

/-- R17, R66, R101: cleared by a frame start and by a reset. -/
def clearRejected (s : State) : State := { s with rxRejected := false }

end Sys2Proof.Machine
end

