-- ==== Sys2Proof/Syntax.lean ====
section
/-! DEFINITION. The instructions: one constructor per row of spec/opcode_table.json, in the table's order. -/

namespace Sys2Proof

/-- The rows of the opcode table. A state's default row carries the received byte `b`; a FRAME row and
`ENCODE` carry the payload, unstuffed. -/
inductive Instr where
  -- state HUNT
  | huntStx
  | huntOther (b : Byte)
  -- state CTRL
  | ctrlStx
  | ctrlData
  | ctrlStatusinfo
  | ctrlGsmStatusinfo
  | ctrlMdbReset
  | ctrlIllegal (b : Byte)
  -- state BODY
  | bodyStx
  | bodyDle
  | bodyLit (b : Byte)
  -- state ESC
  | escDle
  | escEtx
  | escOther (b : Byte)
  -- state CLOSED
  | closedAck
  | closedNak
  | closedStx
  | closedOther (b : Byte)
  -- frame level: a whole wire frame, selected by its control code
  | frameData (payload : List Byte)
  | frameStatusinfo (payload : List Byte)
  | frameGsmStatusinfo (payload : List Byte)
  | frameMdbReset (payload : List Byte)
  | frameIllegal (cc : Byte) (payload : List Byte)
  -- the Timeout event
  | huntTimeout
  | ctrlTimeout
  | bodyTimeout
  | escTimeout
  | closedTimeout
  -- transmit commands
  | encode (cc : Byte) (payload : List Byte)
  | txAck
  | txNak
  -- host command
  | rxReset
  deriving DecidableEq, Repr

end Sys2Proof
end

