-- ==== Sys2Proof/WellFormed.lean ====
section
/-! DEFINITION. Which terms of `Instr` stand for an encoding: a default row's operand is a byte that no
earlier row of its state takes (spec R46, R48). The literals are the constants of R6. -/

namespace Sys2Proof

/-- R46: first match wins, so the operand of a default row is none of the bytes of the rows above it.
R48, R78: the operand of `FRAME.illegal` is outside the accepted set (`0x02` is among its values). -/
def Instr.wellFormed : Instr → Bool
  | .huntOther b => b != 0x02#8
  | .ctrlIllegal b => !([0x02#8, 0x00#8, 0x11#8, 0x17#8, 0x14#8].contains b)
  | .bodyLit b => !([0x02#8, 0x10#8].contains b)
  | .escOther b => !([0x10#8, 0x03#8].contains b)
  | .closedOther b => !([0x06#8, 0x15#8, 0x02#8].contains b)
  | .frameIllegal cc _ => !([0x00#8, 0x11#8, 0x17#8, 0x14#8].contains cc)
  | .huntStx | .ctrlStx | .ctrlData | .ctrlStatusinfo | .ctrlGsmStatusinfo | .ctrlMdbReset
  | .bodyStx | .bodyDle | .escDle | .escEtx | .closedAck | .closedNak | .closedStx
  | .frameData _ | .frameStatusinfo _ | .frameGsmStatusinfo _ | .frameMdbReset _
  | .huntTimeout | .ctrlTimeout | .bodyTimeout | .escTimeout | .closedTimeout
  | .encode _ _ | .txAck | .txNak | .rxReset => true

end Sys2Proof
end

