-- ==== Sys2Proof/Decode.lean ====
section
/-! DEFINITION. The constants, the wire format, the decoder (total, rejecting by name) and the encoder
(spec R6, R14, R39 to R54). -/

namespace Sys2Proof

/-! ### The constants of R6 (UNVERIFIED literals, log entry 9) -/

def STX : Byte := 0x02#8
def ETX : Byte := 0x03#8
def DLE : Byte := 0x10#8
def ACK : Byte := 0x06#8
def NAK : Byte := 0x15#8
def DATA : Byte := 0x00#8
def STATUSINFO : Byte := 0x11#8
def GSM_STATUSINFO : Byte := 0x17#8
def MDB_RESET : Byte := 0x14#8

/-! ### The wire format (R40, R41) -/

/-- R41: a `DLE` is doubled, every other byte is itself. -/
def stuff (b : Byte) : List Byte := if b = DLE then [DLE, DLE] else [b]

/-- R41: the stuffed form of a byte sequence, `concat_map(stuff, bs)`. -/
def stuffAll (bs : List Byte) : List Byte := bs.flatMap stuff

/-- R40: the wire frame of the logical frame `(cc, payload)`. -/
def wire (cc : Byte) (payload : List Byte) : List Byte :=
  [STX] ++ stuff cc ++ stuffAll payload ++ [DLE, ETX]

/-- Why a code is no instruction. Raised by `decodeCode` and `RxState.ofBits` only; the running block
never meets one, because every byte and event of every state decodes (R46). Safe. -/
inductive Reject where
  /-- R14: the 3-bit codes `0b101` to `0b111` stand for no `rx_state`. -/
  | unreachableState
  /-- R40: a wire frame begins with `STX`. -/
  | noStartDelimiter
  /-- R40: the bytes end before `DLE ETX`. -/
  | truncated
  /-- R41: in the body a `DLE` is followed by `DLE` or `ETX`. -/
  | badEscape (b : Byte)
  /-- R45: bytes after the first `ETX` that follows an unpaired `DLE`. -/
  | trailing
  /-- R49: `02 10 03`, a frame without a control code. -/
  | emptyBody
  deriving DecidableEq, Repr

/-- R41, R45: the receiver's inverse of stuffing, up to and including the closing `DLE ETX`. Pairing is
strictly left to right: a byte that completes a pair never opens one. -/
def unstuffBody : List Byte → Except Reject (List Byte)
  | [] => .error .truncated
  | [_] => .error .truncated
  | a :: b :: rest =>
    if a = DLE then
      if b = DLE then (unstuffBody rest).map (DLE :: ·)
      else if b = ETX then (if rest = [] then .ok [] else .error .trailing)
      else .error (.badEscape b)
    else (unstuffBody (b :: rest)).map (a :: ·)

/-- R39, R40: the logical frame whose wire frame the bytes are. -/
def parseWire : List Byte → Except Reject (Byte × List Byte)
  | [] => .error .truncated
  | start :: body =>
    if start = STX then
      match unstuffBody body with
      | .ok (cc :: payload) => .ok (cc, payload)
      | .ok [] => .error .emptyBody
      | .error r => .error r
    else .error .noStartDelimiter

/-! ### The 3-bit code of `rx_state` (R14) -/

def RxState.toBits : RxState → BitVec 3
  | .hunt => 0b000#3
  | .ctrl => 0b001#3
  | .body => 0b010#3
  | .esc => 0b011#3
  | .closed => 0b100#3

def RxState.ofBits (v : BitVec 3) : Except Reject RxState :=
  if v = 0b000#3 then .ok .hunt
  else if v = 0b001#3 then .ok .ctrl
  else if v = 0b010#3 then .ok .body
  else if v = 0b011#3 then .ok .esc
  else if v = 0b100#3 then .ok .closed
  else .error .unreachableState

/-! ### The decoder -/

/-- R46: the decode map. Within a state the rows are tried top to bottom; total over all 5 x 256 pairs. -/
def decodeByte (st : RxState) (b : Byte) : Instr :=
  match st with
  | .hunt => if b = STX then .huntStx else .huntOther b
  | .ctrl =>
    if b = STX then .ctrlStx
    else if b = DATA then .ctrlData
    else if b = STATUSINFO then .ctrlStatusinfo
    else if b = GSM_STATUSINFO then .ctrlGsmStatusinfo
    else if b = MDB_RESET then .ctrlMdbReset
    else .ctrlIllegal b
  | .body => if b = STX then .bodyStx else if b = DLE then .bodyDle else .bodyLit b
  | .esc => if b = DLE then .escDle else if b = ETX then .escEtx else .escOther b
  | .closed =>
    if b = ACK then .closedAck
    else if b = NAK then .closedNak
    else if b = STX then .closedStx
    else .closedOther b

/-- R46, R94, R95: the `Timeout` event is decoded by `rx_state` alone. -/
def decodeTimeout : RxState → Instr
  | .hunt => .huntTimeout
  | .ctrl => .ctrlTimeout
  | .body => .bodyTimeout
  | .esc => .escTimeout
  | .closed => .closedTimeout

/-- R63: the one instruction for a state and an event. -/
def decodeEvent (st : RxState) : RxEvent → Instr
  | .byte b => decodeByte st b
  | .timeout => decodeTimeout st

/-- R48: the control code is the opcode of a frame. -/
def decodeFrame (cc : Byte) (payload : List Byte) : Instr :=
  if cc = DATA then .frameData payload
  else if cc = STATUSINFO then .frameStatusinfo payload
  else if cc = GSM_STATUSINFO then .frameGsmStatusinfo payload
  else if cc = MDB_RESET then .frameMdbReset payload
  else .frameIllegal cc payload

def decodeTx : TxCmd → Instr
  | .encode cc payload => .encode cc payload
  | .ack => .txAck
  | .nak => .txNak

/-- The instruction of one entry of `State.inputs`; `none` for the hard reset alone, which is no row of the
table. -/
def decodeInput (st : RxState) : Input → Option Instr
  | .event e => some (decodeEvent st e)
  | .wire cc payload => some (decodeFrame cc payload)
  | .tx c => some (decodeTx c)
  | .rxReset => some .rxReset
  | .hardReset => none

/-! ### Codes: an instruction's bytes with the format that selects its rows (R54) -/

/-- R54: the nine formats of the opcode table. -/
inductive Format where
  | hunt | ctrl | body | esc | closed | frame | event | txCmd | hostCmd
  deriving DecidableEq, Repr

def RxState.format : RxState → Format
  | .hunt => .hunt
  | .ctrl => .ctrl
  | .body => .body
  | .esc => .esc
  | .closed => .closed

/-- What an instruction's encoding is: a received byte or a timeout in a state, the wire bytes of a frame,
the bytes a transmit command emits, or the host command, which has no bytes. -/
inductive Code where
  | byte (st : RxState) (b : Byte)
  | timeout (st : RxState)
  | frame (bytes : List Byte)
  | txCmd (bytes : List Byte)
  | rxReset
  deriving DecidableEq, Repr

/-- The transmit command that emits exactly these bytes (R40, R43). -/
def decodeTxBytes (bytes : List Byte) : Except Reject Instr :=
  if bytes = [ACK] then .ok .txAck
  else if bytes = [NAK] then .ok .txNak
  else (parseWire bytes).map fun f => .encode f.1 f.2

/-- The decoder over codes, total on any bytes. -/
def decodeCode : Code → Except Reject Instr
  | .byte st b => .ok (decodeByte st b)
  | .timeout st => .ok (decodeTimeout st)
  | .frame bytes => (parseWire bytes).map fun f => decodeFrame f.1 f.2
  | .txCmd bytes => decodeTxBytes bytes
  | .rxReset => .ok .rxReset

/-- The code under which an entry of `State.inputs` reaches the block. -/
def inputCode (st : RxState) : Input → Option Code
  | .event (.byte b) => some (.byte st b)
  | .event .timeout => some (.timeout st)
  | .wire cc payload => some (.frame (wire cc payload))
  | .tx (.encode cc payload) => some (.txCmd (wire cc payload))
  | .tx .ack => some (.txCmd [ACK])
  | .tx .nak => some (.txCmd [NAK])
  | .rxReset => some .rxReset
  | .hardReset => none

/-! ### The encoder -/

/-- The code of an instruction, from the tables of R40, R46, R48 and the `encoding` strings of the opcode
table. -/
def encode : Instr → Code
  | .huntStx => .byte .hunt STX
  | .huntOther b => .byte .hunt b
  | .ctrlStx => .byte .ctrl STX
  | .ctrlData => .byte .ctrl DATA
  | .ctrlStatusinfo => .byte .ctrl STATUSINFO
  | .ctrlGsmStatusinfo => .byte .ctrl GSM_STATUSINFO
  | .ctrlMdbReset => .byte .ctrl MDB_RESET
  | .ctrlIllegal b => .byte .ctrl b
  | .bodyStx => .byte .body STX
  | .bodyDle => .byte .body DLE
  | .bodyLit b => .byte .body b
  | .escDle => .byte .esc DLE
  | .escEtx => .byte .esc ETX
  | .escOther b => .byte .esc b
  | .closedAck => .byte .closed ACK
  | .closedNak => .byte .closed NAK
  | .closedStx => .byte .closed STX
  | .closedOther b => .byte .closed b
  | .frameData payload => .frame (wire DATA payload)
  | .frameStatusinfo payload => .frame (wire STATUSINFO payload)
  | .frameGsmStatusinfo payload => .frame (wire GSM_STATUSINFO payload)
  | .frameMdbReset payload => .frame (wire MDB_RESET payload)
  | .frameIllegal cc payload => .frame (wire cc payload)
  | .huntTimeout => .timeout .hunt
  | .ctrlTimeout => .timeout .ctrl
  | .bodyTimeout => .timeout .body
  | .escTimeout => .timeout .esc
  | .closedTimeout => .timeout .closed
  | .encode cc payload => .txCmd (wire cc payload)
  | .txAck => .txCmd [ACK]
  | .txNak => .txCmd [NAK]
  | .rxReset => .rxReset

/-! ### The opcode table as data, and the decoder R54 describes over it -/

/-- A row of the table that has `match` and `mask`; `index` is its position in spec/opcode_table.json,
counted from 0. -/
structure Row where
  index    : Nat
  format   : Format
  priority : Nat
  pattern  : Byte
  mask     : Byte
  deriving DecidableEq, Repr

def huntRows : List Row := [⟨0, .hunt, 0, 0x02#8, 0xFF#8⟩, ⟨1, .hunt, 1, 0x00#8, 0x00#8⟩]

def ctrlRows : List Row :=
  [⟨2, .ctrl, 0, 0x02#8, 0xFF#8⟩, ⟨3, .ctrl, 1, 0x00#8, 0xFF#8⟩, ⟨4, .ctrl, 2, 0x11#8, 0xFF#8⟩,
   ⟨5, .ctrl, 3, 0x17#8, 0xFF#8⟩, ⟨6, .ctrl, 4, 0x14#8, 0xFF#8⟩, ⟨7, .ctrl, 5, 0x00#8, 0x00#8⟩]

def bodyRows : List Row :=
  [⟨8, .body, 0, 0x02#8, 0xFF#8⟩, ⟨9, .body, 1, 0x10#8, 0xFF#8⟩, ⟨10, .body, 2, 0x00#8, 0x00#8⟩]

def escRows : List Row :=
  [⟨11, .esc, 0, 0x10#8, 0xFF#8⟩, ⟨12, .esc, 1, 0x03#8, 0xFF#8⟩, ⟨13, .esc, 2, 0x00#8, 0x00#8⟩]

def closedRows : List Row :=
  [⟨14, .closed, 0, 0x06#8, 0xFF#8⟩, ⟨15, .closed, 1, 0x15#8, 0xFF#8⟩,
   ⟨16, .closed, 2, 0x02#8, 0xFF#8⟩, ⟨17, .closed, 3, 0x00#8, 0x00#8⟩]

def frameRows : List Row :=
  [⟨18, .frame, 0, 0x00#8, 0xFF#8⟩, ⟨19, .frame, 1, 0x11#8, 0xFF#8⟩, ⟨20, .frame, 2, 0x17#8, 0xFF#8⟩,
   ⟨21, .frame, 3, 0x14#8, 0xFF#8⟩, ⟨22, .frame, 4, 0x00#8, 0x00#8⟩]

def tableRows : List Row := huntRows ++ ctrlRows ++ bodyRows ++ escRows ++ closedRows ++ frameRows

/-- R54: the rows of a format, in increasing priority (the table lists them so). -/
def rowsOf (f : Format) : List Row := tableRows.filter (·.format = f)

/-- R54: "pick the first with `(byte AND mask) = match`"; the answer is the row's position in the table. -/
def selectRow (f : Format) (b : Byte) : Option Nat :=
  ((rowsOf f).find? fun r => b &&& r.mask = r.pattern).map (·.index)

/-- The position of the instruction's row in spec/opcode_table.json, counted from 0. -/
def Instr.row : Instr → Nat
  | .huntStx => 0
  | .huntOther _ => 1
  | .ctrlStx => 2
  | .ctrlData => 3
  | .ctrlStatusinfo => 4
  | .ctrlGsmStatusinfo => 5
  | .ctrlMdbReset => 6
  | .ctrlIllegal _ => 7
  | .bodyStx => 8
  | .bodyDle => 9
  | .bodyLit _ => 10
  | .escDle => 11
  | .escEtx => 12
  | .escOther _ => 13
  | .closedAck => 14
  | .closedNak => 15
  | .closedStx => 16
  | .closedOther _ => 17
  | .frameData _ => 18
  | .frameStatusinfo _ => 19
  | .frameGsmStatusinfo _ => 20
  | .frameMdbReset _ => 21
  | .frameIllegal _ _ => 22
  | .huntTimeout => 23
  | .ctrlTimeout => 24
  | .bodyTimeout => 25
  | .escTimeout => 26
  | .closedTimeout => 27
  | .encode _ _ => 28
  | .txAck => 29
  | .txNak => 30
  | .rxReset => 31

def Code.format : Code → Format
  | .byte st _ => st.format
  | .timeout _ => .event
  | .frame _ => .frame
  | .txCmd _ => .txCmd
  | .rxReset => .hostCmd

/-- The byte `match` and `mask` are applied to: the received byte, or the byte that follows `STX`. -/
def Code.key : Code → Option Byte
  | .byte _ b => some b
  | .frame bytes => bytes[1]?
  | .timeout _ | .txCmd _ | .rxReset => none

/-! ### The host's reading of table words -/

/-- The state whose own (not default) row a byte has, the first in the table's order; HUNT, the reset
state, for a byte with no such row (log entry 7). -/
def tableState (b : Byte) : RxState :=
  if b = STX then .hunt
  else if b = DATA ∨ b = STATUSINFO ∨ b = GSM_STATUSINFO ∨ b = MDB_RESET then .ctrl
  else if b = DLE then .body
  else if b = ETX then .esc
  else if b = ACK ∨ b = NAK then .closed
  else .hunt

/-- The first `n` bytes of a number, the first byte in the least significant place. -/
def bytesOfNat : Nat → Nat → List Byte
  | 0, _ => []
  | n + 1, w => BitVec.ofNat 8 w :: bytesOfNat n (w / 256)

/-- The byte of a table word of at most eight bits. -/
def tableByte (nbits w : Nat) : Byte := BitVec.ofNat 8 (w % 2 ^ nbits)

/-- Rows of at most eight bits are received bytes; the only longer encoding of the table is `ENCODE`'s. -/
def decodeTableWord (nbits w : Nat) : Option Instr :=
  if nbits ≤ 8 then some (decodeByte (tableState (tableByte nbits w)) (tableByte nbits w))
  else (decodeCode (.txCmd (bytesOfNat (nbits / 8) w))).toOption

end Sys2Proof
end

