-- ==== Sys2Proof/Machine/Operands.lean ====
section
/-! DEFINITION. The control-code classifier (spec R77, R78), the capacity test of the buffer (R11, R16), and
the events of a byte sequence. The stuffing of operands (R41) stands in Decode. -/

namespace Sys2Proof.Machine

/-- R77: the accepted control codes on receive, fixed in the block. -/
def accepted : List Byte := [DATA, STATUSINFO, MDB_RESET, GSM_STATUSINFO]

/-- R78: the three classes of a control-code byte. -/
inductive CcClass where
  | reset | normal | illegal
  deriving DecidableEq, Repr

/-- R78: whole bytes compared for equality, no mask and no range. -/
def ccClass (b : Byte) : CcClass :=
  if b = MDB_RESET then .reset
  else if b = DATA ∨ b = STATUSINFO ∨ b = GSM_STATUSINFO then .normal
  else .illegal

/-- R11: `len < PAYLOAD_MAX`, always true when `PAYLOAD_MAX = unbounded`. -/
def hasRoom (c : Config) (len : Nat) : Bool :=
  match c.payloadMax with
  | none => true
  | some m => len < m

/-- R16: a buffer of `len` bytes is within `PAYLOAD_MAX`. -/
def withinMax (c : Config) (len : Nat) : Bool :=
  match c.payloadMax with
  | none => true
  | some m => len ≤ m

/-- Bytes as events, in travel order. -/
def byteEvents (bs : List Byte) : List RxEvent := bs.map .byte

/-- The bytes among events, in travel order: the stream less its timeouts. -/
def bytesOf (es : List RxEvent) : List Byte :=
  es.filterMap fun
    | .byte b => some b
    | .timeout => none

end Sys2Proof.Machine
end

