-- ==== Sys2Proof/Machine/Ops.lean ====
section
/-! DEFINITION. The primitives of the spec's pseudocode (R11) as operations on the state: register writes, the
buffer, the two streams, `StartFrame` (R66), and taking and leaving an error (R109, R110, R115). -/

namespace Sys2Proof.Machine

/-- `rx_state <- S`: the next step is decoded in state `S`. -/
def goto (st : RxState) (s : State) : State := { s with rxState := st }

/-- `rx_cc <- v`. -/
def setCc (v : Byte) (s : State) : State := { s with rxCc := v }

/-- `BufClear()`. -/
def bufClear (s : State) : State := { s with rxBuf := [] }

/-- `BufAppend(v)`: the state with `v` at the buffer's end, or `none` where the buffer is full and the step
raises `PayloadOverrun`. -/
def bufAppend (v : Byte) (s : State) : Option State :=
  if hasRoom s.cfg s.rxBuf.length then some { s with rxBuf := s.rxBuf ++ [v] } else none

/-- `out <- o`: the one output of this RX step. -/
def out (o : RxOut) (s : State) : State := { s with outcomes := s.outcomes ++ [o] }

/-- `TxPut(v)`. -/
def txPut (v : Byte) (s : State) : State := { s with txStream := s.txStream ++ [v] }

/-- What remains to be taken from the world. -/
def setInputs (inputs : List Input) (s : State) : State := { s with inputs := inputs }

/-- R66: the common action of every step that takes `STX` as a start delimiter. -/
def startFrame (s : State) : State :=
  out .none (clearRejected (bufClear (setCc 0x00#8 (goto .ctrl s))))

/-- Taking an error, the one shared entry of R109 and R110: the report is output, the partial frame is
discarded, the receiver goes to HUNT, `rx_rejected` keeps its value. Nothing is saved (R109), and there is no
return: HUNT resumes by itself at the next `STX` (R115). -/
def raiseOutcome (o : RxOut) (s : State) : State :=
  out o (bufClear (setCc 0x00#8 (goto .hunt s)))

/-- R109: `raise DecodeError(kind, b)`. -/
def raiseDecodeError (kind : ErrorKind) (b : Byte) (s : State) : State :=
  raiseOutcome (.decodeError kind b) s

/-- R110: `raise BusReset`. -/
def raiseBusReset (s : State) : State := raiseOutcome .busReset s

/-- R69, R70: append `v` and go to BODY, or report the overrun with the step's input byte `b`. -/
def appendOrOverrun (v b : Byte) (s : State) : State :=
  match bufAppend v s with
  | some t => out .none (goto .body t)
  | none => raiseDecodeError .payloadOverrun b s

/-- R23: the four registers at their reset values. -/
def resetRegs (s : State) : State :=
  clearRejected (bufClear (setCc 0x00#8 (goto .hunt s)))

end Sys2Proof.Machine
end

