-- ==== Sys2Proof/Machine/Closed.lean ====
section
/-! DEFINITION. The secondary status byte (state CLOSED, spec R89 to R92) and the `Timeout` event (R94, R95). -/

namespace Sys2Proof.Machine

/-- R89, R92: the status-byte window is over; every other register keeps its value. -/
def closeWindow (s : State) : State := out .none (goto .hunt s)

/-- R89. -/
def closedAck (s : State) : State := closeWindow s
def execClosedAck (s : State) : Result := .next (closedAck s)

/-- R90: the mark is a flag, not an outcome. -/
def closedNak (s : State) : State := closeWindow (setRejected s)
def execClosedNak (s : State) : Result := .next (closedNak s)

/-- R91. -/
def closedStx (s : State) : State := startFrame s
def execClosedStx (s : State) : Result := .next (closedStx s)

/-- R92: the byte is dropped. -/
def closedOther (_b : Byte) (s : State) : State := closeWindow s
def execClosedOther (b : Byte) (s : State) : Result := .next (closedOther b s)

/-- R94: "no data yet"; every register keeps its value. -/
def timeoutKeep (s : State) : State := out .timeout s

def huntTimeout (s : State) : State := timeoutKeep s
def execHuntTimeout (s : State) : Result := .next (huntTimeout s)

def ctrlTimeout (s : State) : State := timeoutKeep s
def execCtrlTimeout (s : State) : Result := .next (ctrlTimeout s)

def bodyTimeout (s : State) : State := timeoutKeep s
def execBodyTimeout (s : State) : Result := .next (bodyTimeout s)

def escTimeout (s : State) : State := timeoutKeep s
def execEscTimeout (s : State) : Result := .next (escTimeout s)

/-- R95: there was no status byte, and the window closes. -/
def closedTimeout (s : State) : State := out .timeout (goto .hunt s)
def execClosedTimeout (s : State) : Result := .next (closedTimeout s)

end Sys2Proof.Machine
end

