-- ==== Sys2Proof/Machine/Deframer.lean ====
section
/-! DEFINITION. The receive deframer: the byte instructions of states HUNT, BODY and ESC (spec R64 to R75).
For each the effect on the state, and the meaning, which answers that effect as the next state. -/

namespace Sys2Proof.Machine

/-! ### HUNT -/

/-- R64. -/
def huntStx (s : State) : State := startFrame s
def execHuntStx (s : State) : Result := .next (huntStx s)

/-- R65: every register keeps its value. -/
def huntOther (_b : Byte) (s : State) : State := out .none s
def execHuntOther (b : Byte) (s : State) : Result := .next (huntOther b s)

/-! ### BODY -/

/-- R67: a silent restart. -/
def bodyStx (s : State) : State := startFrame s
def execBodyStx (s : State) : Result := .next (bodyStx s)

/-- R68: nothing is appended. -/
def bodyDle (s : State) : State := out .none (goto .esc s)
def execBodyDle (s : State) : Result := .next (bodyDle s)

/-- R69. -/
def bodyLit (b : Byte) (s : State) : State := appendOrOverrun b b s
def execBodyLit (b : Byte) (s : State) : Result := .next (bodyLit b s)

/-! ### ESC -/

/-- R70: the pair `DLE DLE` is one literal `DLE`. -/
def escDle (s : State) : State := appendOrOverrun DLE DLE s
def execEscDle (s : State) : Result := .next (escDle s)

/-- R71: the frame is delivered at the `ETX` byte; the registers keep it. -/
def escEtx (s : State) : State := out (.frame s.rxCc s.rxBuf) (goto .closed s)
def execEscEtx (s : State) : Result := .next (escEtx s)

/-- R75, R74: the unknown escape, under the policy of R7. -/
def escOther (b : Byte) (s : State) : State :=
  match s.cfg.escPolicy with
  | .reject => raiseDecodeError .unknownEscape b s
  | .ignore => out .none (goto .body s)
def execEscOther (b : Byte) (s : State) : Result := .next (escOther b s)

end Sys2Proof.Machine
end

