-- ==== Sys2Proof/Machine/Validator.lean ====
section
/-! DEFINITION. The control-code validator: the byte instructions of state CTRL (spec R79 to R84). -/

namespace Sys2Proof.Machine

/-- R80 to R82: an accepted control code is latched and the body begins. -/
def acceptCode (cc : Byte) (s : State) : State := out .none (goto .body (setCc cc s))

/-- R79: restart before validation. -/
def ctrlStx (s : State) : State := startFrame s
def execCtrlStx (s : State) : Result := .next (ctrlStx s)

/-- R80. -/
def ctrlData (s : State) : State := acceptCode DATA s
def execCtrlData (s : State) : Result := .next (ctrlData s)

/-- R81. -/
def ctrlStatusinfo (s : State) : State := acceptCode STATUSINFO s
def execCtrlStatusinfo (s : State) : Result := .next (ctrlStatusinfo s)

/-- R82. -/
def ctrlGsmStatusinfo (s : State) : State := acceptCode GSM_STATUSINFO s
def execCtrlGsmStatusinfo (s : State) : Result := .next (ctrlGsmStatusinfo s)

/-- R83: raised at the control-code byte. -/
def ctrlMdbReset (s : State) : State := raiseBusReset s
def execCtrlMdbReset (s : State) : Result := .next (ctrlMdbReset s)

/-- R84, R85. -/
def ctrlIllegal (b : Byte) (s : State) : State := raiseDecodeError .unexpectedControlCode b s
def execCtrlIllegal (b : Byte) (s : State) : Result := .next (ctrlIllegal b s)

end Sys2Proof.Machine
end

