-- ==== Sys2Proof/Machine/Receiver.lean ====
section
/-! DEFINITION. One RX step and a run of RX steps as functions of the events (spec R12, R63, R35), over the
effects of the byte and timeout instructions. -/

namespace Sys2Proof.Machine

/-- The effect of an instruction that an RX event decodes to. The last arms are the rows of other formats,
which `decodeEvent` never gives (`decodeEvent_rx` in Laws). -/
def rxEffect (i : Instr) (s : State) : State :=
  match i with
  | .huntStx => huntStx s
  | .huntOther b => huntOther b s
  | .ctrlStx => ctrlStx s
  | .ctrlData => ctrlData s
  | .ctrlStatusinfo => ctrlStatusinfo s
  | .ctrlGsmStatusinfo => ctrlGsmStatusinfo s
  | .ctrlMdbReset => ctrlMdbReset s
  | .ctrlIllegal b => ctrlIllegal b s
  | .bodyStx => bodyStx s
  | .bodyDle => bodyDle s
  | .bodyLit b => bodyLit b s
  | .escDle => escDle s
  | .escEtx => escEtx s
  | .escOther b => escOther b s
  | .closedAck => closedAck s
  | .closedNak => closedNak s
  | .closedStx => closedStx s
  | .closedOther b => closedOther b s
  | .huntTimeout => huntTimeout s
  | .ctrlTimeout => ctrlTimeout s
  | .bodyTimeout => bodyTimeout s
  | .escTimeout => escTimeout s
  | .closedTimeout => closedTimeout s
  | .frameData _ | .frameStatusinfo _ | .frameGsmStatusinfo _ | .frameMdbReset _ | .frameIllegal _ _
  | .encode _ _ | .txAck | .txNak | .rxReset => s

/-- R12, R63: the processing of one event, decoded in the state the last step left. -/
def rxStep (e : RxEvent) (s : State) : State := rxEffect (decodeEvent s.rxState e) s

/-- R35: events strictly in arrival order. -/
def rxRun : List RxEvent → State → State
  | [], s => s
  | e :: es, s => rxRun es (rxStep e s)

/-- R12: the output of the step for `e`. -/
def rxOutput (e : RxEvent) (s : State) : RxOut := (rxStep e s).outcomes.getLastD .none

end Sys2Proof.Machine
end

