-- ==== Sys2Proof/Machine/Frames.lean ====
section
/-! DEFINITION. The frame-level rows (spec R48, R80 to R84): the receiver takes a whole wire frame
`WIRE(cc; payload)` (R53), byte by byte, from whatever state it is in (log entry 6). -/

namespace Sys2Proof.Machine

/-- R40, R53: the bytes of the wire frame, each one RX step with its own output. -/
def takeWire (cc : Byte) (payload : List Byte) (s : State) : State :=
  rxRun (byteEvents (wire cc payload)) s

/-- R80, R48: accepted; delivered as `Frame(0x00, payload)`. -/
def execFrameData (payload : List Byte) (s : State) : Result := .next (takeWire DATA payload s)

/-- R81, R48. -/
def execFrameStatusinfo (payload : List Byte) (s : State) : Result :=
  .next (takeWire STATUSINFO payload s)

/-- R82, R48. -/
def execFrameGsmStatusinfo (payload : List Byte) (s : State) : Result :=
  .next (takeWire GSM_STATUSINFO payload s)

/-- R83, R48: `BusReset` at the control-code byte, no frame delivered. -/
def execFrameMdbReset (payload : List Byte) (s : State) : Result :=
  .next (takeWire MDB_RESET payload s)

/-- R84, R48: every other control code. -/
def execFrameIllegal (cc : Byte) (payload : List Byte) (s : State) : Result :=
  .next (takeWire cc payload s)

end Sys2Proof.Machine
end

