-- ==== Sys2Proof/Machine/HostOps.lean ====
section
/-! DEFINITION. What the host does besides transmitting: `RxReset` (spec R101), hard reset (R121), register
reads (R100), the stream cursor (R21), and the `DECODE` call (R97). -/

namespace Sys2Proof.Machine

/-- R101: the receiver's reset state; no event is consumed and no outcome given. -/
def execRxReset (s : State) : Result := .next (resetRegs s)

/-- R121: the registers at their reset values; no byte is emitted, no outcome produced, the parameters keep
their values. Bytes already put on the TX stream stay there (R27, log entry 4). -/
def hardReset (s : State) : State := resetRegs s

/-- R100: reading changes nothing. -/
def hostRead (s : State) : RxRegs := ⟨s.rxState, s.rxCc, s.rxBuf, s.rxRejected⟩

/-- R21: how many events of the RX stream have been taken: one output each (R8). -/
def rxCursor (s : State) : Nat := s.outcomes.length

/-- What a `DECODE` call has come to: it returned with an outcome, leaving the rest of the source unread, or
every event it was given went by without one and it is still waiting (R98). -/
inductive DecodeCall where
  | returned (o : RxOut) (rest : List RxEvent) (s : State)
  | waiting (s : State)
  deriving DecidableEq, Repr

/-- R97: run RX steps until one outputs something other than `None`, consume nothing further. The registers
are those the last call left (R22). -/
def decodeCall : List RxEvent → State → DecodeCall
  | [], s => .waiting s
  | e :: es, s =>
    if rxOutput e s = .none then decodeCall es (rxStep e s)
    else .returned (rxOutput e s) es (rxStep e s)

end Sys2Proof.Machine
end

