-- ==== Sys2Proof/Machine/Transmit.lean ====
section
/-! DEFINITION. The transmit framer (spec R55, R60, R61): each command appends its bytes to the TX stream and
writes nothing else (R19). -/

namespace Sys2Proof.Machine

/-- R55: `if b = 0x10 then TxPut(0x10); TxPut(0x10) else TxPut(b)`. -/
def txPutStuffed (b : Byte) (s : State) : State :=
  if b = DLE then txPut DLE (txPut DLE s) else txPut b s

/-- R55: the payload loop, in index order. -/
def txPutPayload : List Byte → State → State
  | [], s => s
  | b :: rest, s => txPutPayload rest (txPutStuffed b s)

/-- R55, R56, R57: total; validates nothing. -/
def execEncode (cc : Byte) (payload : List Byte) (s : State) : Result :=
  .next (txPut ETX (txPut DLE (txPutPayload payload (txPutStuffed cc (txPut STX s)))))

/-- R60. -/
def execTxAck (s : State) : Result := .next (txPut ACK s)

/-- R61. -/
def execTxNak (s : State) : Result := .next (txPut NAK s)

end Sys2Proof.Machine
end

