-- ==== Sys2Proof/Machine/Dispatch.lean ====
section
/-! DEFINITION. One arm per instruction: the direct call of its meaning. -/

namespace Sys2Proof.Machine

def exec (i : Instr) (s : State) : Host.Outcome State Fault Refusal :=
  match i with
  -- state HUNT
  | .huntStx => Sys2Proof.Machine.execHuntStx s
  | .huntOther b => Sys2Proof.Machine.execHuntOther b s
  -- state CTRL
  | .ctrlStx => Sys2Proof.Machine.execCtrlStx s
  | .ctrlData => Sys2Proof.Machine.execCtrlData s
  | .ctrlStatusinfo => Sys2Proof.Machine.execCtrlStatusinfo s
  | .ctrlGsmStatusinfo => Sys2Proof.Machine.execCtrlGsmStatusinfo s
  | .ctrlMdbReset => Sys2Proof.Machine.execCtrlMdbReset s
  | .ctrlIllegal b => Sys2Proof.Machine.execCtrlIllegal b s
  -- state BODY
  | .bodyStx => Sys2Proof.Machine.execBodyStx s
  | .bodyDle => Sys2Proof.Machine.execBodyDle s
  | .bodyLit b => Sys2Proof.Machine.execBodyLit b s
  -- state ESC
  | .escDle => Sys2Proof.Machine.execEscDle s
  | .escEtx => Sys2Proof.Machine.execEscEtx s
  | .escOther b => Sys2Proof.Machine.execEscOther b s
  -- state CLOSED
  | .closedAck => Sys2Proof.Machine.execClosedAck s
  | .closedNak => Sys2Proof.Machine.execClosedNak s
  | .closedStx => Sys2Proof.Machine.execClosedStx s
  | .closedOther b => Sys2Proof.Machine.execClosedOther b s
  -- frame level
  | .frameData payload => Sys2Proof.Machine.execFrameData payload s
  | .frameStatusinfo payload => Sys2Proof.Machine.execFrameStatusinfo payload s
  | .frameGsmStatusinfo payload => Sys2Proof.Machine.execFrameGsmStatusinfo payload s
  | .frameMdbReset payload => Sys2Proof.Machine.execFrameMdbReset payload s
  | .frameIllegal cc payload => Sys2Proof.Machine.execFrameIllegal cc payload s
  -- the Timeout event
  | .huntTimeout => Sys2Proof.Machine.execHuntTimeout s
  | .ctrlTimeout => Sys2Proof.Machine.execCtrlTimeout s
  | .bodyTimeout => Sys2Proof.Machine.execBodyTimeout s
  | .escTimeout => Sys2Proof.Machine.execEscTimeout s
  | .closedTimeout => Sys2Proof.Machine.execClosedTimeout s
  -- transmit commands
  | .encode cc payload => Sys2Proof.Machine.execEncode cc payload s
  | .txAck => Sys2Proof.Machine.execTxAck s
  | .txNak => Sys2Proof.Machine.execTxNak s
  -- host command
  | .rxReset => Sys2Proof.Machine.execRxReset s

end Sys2Proof.Machine
end

