-- ==== Sys2Proof/Machine/Fetch.lean ====
section
/-! DEFINITION. Taking the next entry of `State.inputs` (spec R12, R21, R33) and placing a table word there. -/

namespace Sys2Proof.Machine

/-- What the next step has to do. -/
inductive Fetched where
  | idle
  | hardReset
  | instr (i : Instr)
  deriving DecidableEq, Repr

/-- The first entry is consumed and decoded in the present `rx_state`; with nothing presented the block is
idle (R119). -/
def fetch (s : State) : Fetched × State :=
  match s.inputs with
  | [] => (.idle, s)
  | inp :: rest =>
    match decodeInput s.rxState inp with
    | some i => (.instr i, setInputs rest s)
    | none => (.hardReset, setInputs rest s)

/-- Put a byte at the front of the RX stream, with the receiver in the state whose row it selects. -/
def placeByte (b : Byte) (s : State) : State :=
  goto (tableState b) (setInputs (.event (.byte b) :: s.inputs) s)

/-- A table word of at most eight bits is a received byte; a longer one is the `ENCODE` command that emits
those bytes (log entry 7). Bytes that are no encoding place nothing. -/
def placeWord (s : State) (nbits w : Nat) : State :=
  if nbits ≤ 8 then placeByte (tableByte nbits w) s
  else
    match parseWire (bytesOfNat (nbits / 8) w) with
    | .ok (cc, payload) => setInputs (.tx (.encode cc payload) :: s.inputs) s
    | .error _ => s

end Sys2Proof.Machine
end

