-- ==== Sys2Proof/Machine/Step.lean ====
section
/-! DEFINITION. One step of the block (spec R12): take the next entry of the inputs and run it. -/

namespace Sys2Proof.Machine

/-- R12, R33: one entry, one atomic step; idle with nothing presented (R119); hard reset (R121). -/
def step (s : State) : Host.Outcome State Fault Refusal :=
  match fetch s with
  | (.idle, t) => .next t
  | (.hardReset, t) => .next (hardReset t)
  | (.instr i, t) => exec i t

/-- The state with a table word where the next step takes it (log entry 7). -/
def State.withFetchWord (s : State) (nbits w : Nat) : State := placeWord s nbits w

end Sys2Proof.Machine
end

