-- ==== Sys2Proof/Safety.lean ====
section
/-! DEFINITION. The terms claims are stated in: the reachable forms of R18, valid frames (R72, R88), runs of the
machine, what the inputs ask for, and the next-state table of R102. No part of the step. -/

namespace Sys2Proof.Machine

/-! ### Reachable forms and valid frames -/

/-- R88: the control codes a delivered frame can have. -/
def deliverable : List Byte := [0x00#8, 0x11#8, 0x17#8]

/-- R72: the code is deliverable, the payload holds no `STX` and is within `PAYLOAD_MAX`. -/
abbrev validFrame (c : Config) (cc : Byte) (payload : List Byte) : Prop :=
  cc ∈ deliverable ∧ 0x02#8 ∉ payload ∧ withinMax c payload.length = true

/-- R18, first and third row: nothing held. -/
abbrev State.cleared (s : State) : Prop := s.rxCc = 0x00#8 ∧ s.rxBuf = [] ∧ s.rxRejected = false

/-- R18: `rx_cc` and `rx_buf` are those of a frame in progress or last closed. -/
abbrev State.holdsFrame (s : State) : Prop := validFrame s.cfg s.rxCc s.rxBuf

/-- R18: the combinations of the four registers that occur. -/
abbrev State.legal (s : State) : Prop :=
  (s.rxState = .hunt → s.cleared ∨ s.holdsFrame) ∧
  (s.rxState = .ctrl → s.cleared) ∧
  (s.rxState = .body ∨ s.rxState = .esc ∨ s.rxState = .closed → s.holdsFrame ∧ s.rxRejected = false)

/-- R72: every frame delivered so far is valid. -/
abbrev State.deliveredValid (s : State) : Prop :=
  ∀ o ∈ s.outcomes,
    match o with
    | .frame cc payload => validFrame s.cfg cc payload
    | _ => True

/-! ### Runs -/

/-- `n` steps of the machine, stopping at the first stop. -/
abbrev runSteps (n : Nat) (s : State) : Result := Host.Core.run Sys2Proof.core n s

/-- The next event of the RX stream is `e`, and `rest` is what comes after it. -/
abbrev State.atEvent (s : State) (e : RxEvent) (rest : List Input) : Prop := s.inputs = .event e :: rest

/-- The receiver is in state `st`, the next event is the byte `b`. -/
abbrev State.atByte (s : State) (st : RxState) (b : Byte) (rest : List Input) : Prop :=
  s.rxState = st ∧ s.atEvent (.byte b) rest

/-- Events as entries of the inputs. -/
def eventInputs (es : List RxEvent) : List Input := es.map .event

/-- The output a step gives while nothing is closed and nothing is wrong (R76): `Timeout` for a timeout,
`None` for a byte. -/
def quietOutput : RxEvent → RxOut
  | .byte _ => .none
  | .timeout => .timeout

/-- R40, R43, R59: the bytes an entry of the inputs puts on the TX stream. -/
def txBytes : Input → List Byte
  | .tx (.encode cc payload) => wire cc payload
  | .tx .ack => [0x06#8]
  | .tx .nak => [0x15#8]
  | .event _ | .wire _ _ | .rxReset | .hardReset => []

/-- The entry is a transmit command. -/
def isTx : Input → Bool
  | .tx _ => true
  | .event _ | .wire _ _ | .rxReset | .hardReset => false

/-- R8: how many outputs an entry of the inputs gives: one per event taken. -/
def outputCount : Input → Nat
  | .event _ => 1
  | .wire cc payload => (wire cc payload).length
  | .tx _ | .rxReset | .hardReset => 0

/-! ### The next-state table (R102) -/

/-- R102: the next state for a state and an event; `room` says whether the buffer can take one more byte, and
the policy decides the ESC row. -/
def nextState (policy : EscPolicy) (room : Bool) (st : RxState) (e : RxEvent) : RxState :=
  match st, e with
  | .closed, .timeout => .hunt
  | st, .timeout => st
  | .hunt, .byte b => if b = 0x02#8 then .ctrl else .hunt
  | .ctrl, .byte b =>
    if b = 0x02#8 then .ctrl else if b ∈ deliverable then .body else .hunt
  | .body, .byte b =>
    if b = 0x02#8 then .ctrl else if b = 0x10#8 then .esc else if room then .body else .hunt
  | .esc, .byte b =>
    if b = 0x03#8 then .closed
    else if b = 0x10#8 then (if room then .body else .hunt)
    else match policy with
      | .reject => .hunt
      | .ignore => .body
  | .closed, .byte b => if b = 0x02#8 then .ctrl else .hunt

end Sys2Proof.Machine
end

