-- ==== Sys2Proof/Certificates/Slice0/Obligations.lean ====
section
/-! DEFINITION. The statements for the provers. Rules are those of spec/; a statement about a meaning says which
next state `exec` answers, the whole of it, so everything it does not name is unchanged. -/

open Sys2Proof Sys2Proof.Machine

/-! ### The step and the decoder -/

/-- R12, R33: one entry of the inputs is one step: the entry is taken, decoded in the present `rx_state`, and
run. R119: with nothing presented the block is idle. R121: the hard reset is the one entry that is no
instruction. The list of inputs and the idle step are the model's choice (log entries 2 and 5). -/
def Obligations.StepRunsDecodedInstruction : Prop :=
  ∀ (s : State) (inp : Input) (rest : List Input),
    (s.inputs = [] → step s = .next s) ∧
    (s.inputs = inp :: rest →
      match decodeInput s.rxState inp with
      | some i => step s = exec i { s with inputs := rest }
      | none => inp = .hardReset ∧ step s = .next (hardReset { s with inputs := rest }))

/-- R40, R43, R46, R54: the code under which an entry reaches the block (a byte or timeout in a state, the wire
bytes of a frame, the bytes of a transmit command) decodes, by the decoder over codes, to the well-formed
instruction the step runs. -/
def Obligations.InputCodeDecodesToItsInstruction : Prop :=
  ∀ (st : RxState) (inp : Input) (c : Code), inputCode st inp = some c →
    ∃ i : Instr, decodeCode c = .ok i ∧ decodeInput st inp = some i ∧ i.wellFormed = true

/-- R46, R48, R40, R43: words written out from the spec decode to the instructions they stand for. The last clause,
that the bytes `02 10 03` are no frame row and are rejected by name, is the model's choice (log entry 11: the strict
decoder of wire frames); the receiver judges their `10` in CTRL by R84. -/
def Obligations.SpecWordsDecode : Prop :=
  decodeCode (.byte .hunt 0b00000010#8) = .ok .huntStx ∧
  decodeCode (.byte .hunt 0b00010000#8) = .ok (.huntOther 0x10#8) ∧
  decodeCode (.byte .ctrl 0b00010001#8) = .ok .ctrlStatusinfo ∧
  decodeCode (.byte .ctrl 0b00010000#8) = .ok (.ctrlIllegal 0x10#8) ∧
  decodeCode (.byte .body 0b00000011#8) = .ok (.bodyLit 0x03#8) ∧
  decodeCode (.byte .esc 0b00000011#8) = .ok .escEtx ∧
  decodeCode (.byte .esc 0b00000010#8) = .ok (.escOther 0x02#8) ∧
  decodeCode (.byte .closed 0b00010101#8) = .ok .closedNak ∧
  decodeCode (.timeout .esc) = .ok .escTimeout ∧
  decodeCode (.frame [0x02#8, 0x17#8, 0x10#8, 0x10#8, 0x03#8, 0x10#8, 0x03#8]) =
    .ok (.frameGsmStatusinfo [0x10#8, 0x03#8]) ∧
  decodeCode (.txCmd [0x02#8, 0x10#8, 0x10#8, 0x01#8, 0x10#8, 0x03#8]) = .ok (.encode 0x10#8 [0x01#8]) ∧
  decodeCode (.txCmd [0b00000110#8]) = .ok .txAck ∧
  decodeCode (.frame [0x02#8, 0x10#8, 0x03#8]) = .error .emptyBody

/-- R40, R41, R45, R46, R48: decoding the code of a well-formed instruction gives the instruction back, for
every operand. -/
def Obligations.DecodeInvertsEncode : Prop :=
  ∀ i : Instr, i.wellFormed = true → decodeCode (encode i) = .ok i

/-- R40, R41, R46, R48: a code that decodes has one meaning: the instruction is well formed and encodes to that code,
byte for byte. That only the exact wire frame decodes (no trailing byte, no other escape, no empty body) is the
model's choice (log entry 11: the strict decoder of wire frames). -/
def Obligations.EncodeInvertsDecode : Prop :=
  ∀ (c : Code) (i : Instr), decodeCode c = .ok i → i.wellFormed = true ∧ encode i = c

/-- R46, R48, R54: the decoder picks the row that match, mask and priority of the opcode table pick. -/
def Obligations.DecodeMapIsOpcodeTable : Prop :=
  (∀ (st : RxState) (b : Byte), selectRow st.format b = some (decodeByte st b).row) ∧
  (∀ (cc : Byte) (p : List Byte), selectRow .frame cc = some (decodeFrame cc p).row)

/-- R14: the 3-bit codes of `rx_state`; `0b101` to `0b111` stand for no state; that reading them is
rejected by name is the model's choice (log entry 10). -/
def Obligations.RxStateCodes : Prop :=
  RxState.toBits .hunt = 0b000#3 ∧ RxState.toBits .ctrl = 0b001#3 ∧ RxState.toBits .body = 0b010#3 ∧
  RxState.toBits .esc = 0b011#3 ∧ RxState.toBits .closed = 0b100#3 ∧
  (∀ st : RxState, RxState.ofBits st.toBits = .ok st) ∧
  RxState.ofBits 0b101#3 = .error .unreachableState ∧ RxState.ofBits 0b110#3 = .error .unreachableState ∧
  RxState.ofBits 0b111#3 = .error .unreachableState

/-- R77, R78: the accepted set, the three classes, 252 illegal values; in CTRL the class decides every byte but
`0x02`. -/
def Obligations.ControlCodeClassifier : Prop :=
  (∀ b : Byte, b ∈ accepted ↔ b = 0x00#8 ∨ b = 0x11#8 ∨ b = 0x14#8 ∨ b = 0x17#8) ∧
  (∀ b : Byte, ccClass b = .reset ↔ b = 0x14#8) ∧
  (∀ b : Byte, ccClass b = .normal ↔ b = 0x00#8 ∨ b = 0x11#8 ∨ b = 0x17#8) ∧
  (∀ b : Byte, ccClass b = .illegal ↔ b ∉ accepted) ∧
  ((List.range 256).filter fun n => ccClass (BitVec.ofNat 8 n) = .illegal).length = 252 ∧
  (∀ b : Byte, b ≠ 0x02#8 →
    (decodeByte .ctrl b = .ctrlMdbReset ↔ ccClass b = .reset) ∧
    (decodeByte .ctrl b = .ctrlIllegal b ↔ ccClass b = .illegal) ∧
    (decodeByte .ctrl b ∈ [.ctrlData, .ctrlStatusinfo, .ctrlGsmStatusinfo] ↔ ccClass b = .normal))

/-! ### Reset -/

/-- R23: after hard reset and after `RxReset` every register has its stated value. -/
def Obligations.ResetRegisterValues : Prop :=
  hostRead State.reset = ⟨.hunt, 0x00#8, [], false⟩ ∧
  ∀ s : State, hostRead (hardReset s) = ⟨.hunt, 0x00#8, [], false⟩ ∧
    ∃ t, exec .rxReset s = .next t ∧ hostRead t = ⟨.hunt, 0x00#8, [], false⟩

/-- R101: `RxReset` sets the four registers, consumes no event, gives no outcome, and touches neither stream nor
the parameters. -/
def Obligations.RxResetEffect : Prop :=
  ∀ (s : State) (rest : List Input),
    exec .rxReset s =
      .next { s with rxState := .hunt, rxCc := 0x00#8, rxBuf := [], rxRejected := false } ∧
    (s.inputs = .rxReset :: rest →
      step s =
        .next { s with rxState := .hunt, rxCc := 0x00#8, rxBuf := [], rxRejected := false, inputs := rest })

/-- R121: hard reset sets the four registers; it emits no byte and produces no outcome, and the parameters keep
their values. That the TX stream keeps what it holds is the model's choice (log entry 4). -/
def Obligations.HardResetEffect : Prop :=
  ∀ (s : State) (rest : List Input), s.inputs = .hardReset :: rest →
    step s = .next { s with rxState := .hunt, rxCc := 0x00#8, rxBuf := [], rxRejected := false, inputs := rest }

/-! ### Frame starts -/

/-- R64, R66, R67, R79, R91: `STX` in HUNT, CTRL, BODY and CLOSED starts a frame, discarding whatever was in
progress or held, without any report. -/
def Obligations.StxStartsFrame : Prop :=
  ∀ s : State,
    (∀ i ∈ [Instr.huntStx, .ctrlStx, .bodyStx, .closedStx],
      exec i s =
        .next { s with rxState := .ctrl, rxCc := 0x00#8, rxBuf := [], rxRejected := false,
                       outcomes := s.outcomes ++ [.none] }) ∧
    ∀ (st : RxState) (rest : List Input), st ∈ [RxState.hunt, .ctrl, .body, .closed] →
      s.atByte st 0x02#8 rest →
      step s =
        .next { s with rxState := .ctrl, rxCc := 0x00#8, rxBuf := [], rxRejected := false, inputs := rest,
                       outcomes := s.outcomes ++ [.none] }

/-! ### State HUNT -/

/-- R65: any other byte is dropped. -/
def Obligations.HuntDropsOtherByte : Prop :=
  ∀ (s : State) (b : Byte) (rest : List Input),
    exec (.huntOther b) s = .next { s with outcomes := s.outcomes ++ [.none] } ∧
    (s.atByte .hunt b rest → b ≠ 0x02#8 →
      step s = .next { s with inputs := rest, outcomes := s.outcomes ++ [.none] })

/-! ### State CTRL -/

/-- R80, R81, R82: an accepted control code is latched and the body begins. -/
def Obligations.AcceptedCodeOpensBody : Prop :=
  ∀ (s : State) (rest : List Input),
    ∀ r ∈ [(Instr.ctrlData, 0x00#8), (.ctrlStatusinfo, 0x11#8), (.ctrlGsmStatusinfo, 0x17#8)],
      exec r.1 s =
        .next { s with rxState := .body, rxCc := r.2, outcomes := s.outcomes ++ [.none] } ∧
      (s.atByte .ctrl r.2 rest →
        step s =
          .next { s with rxState := .body, rxCc := r.2, inputs := rest, outcomes := s.outcomes ++ [.none] })

/-- R83: `MDB_RESET` raises `BusReset` at the control-code byte. -/
def Obligations.MdbResetRaisesBusReset : Prop :=
  ∀ (s : State) (rest : List Input),
    exec .ctrlMdbReset s =
      .next { s with rxState := .hunt, rxCc := 0x00#8, rxBuf := [], outcomes := s.outcomes ++ [.busReset] } ∧
    (s.atByte .ctrl 0x14#8 rest →
      step s =
        .next { s with rxState := .hunt, rxCc := 0x00#8, rxBuf := [], inputs := rest,
                       outcomes := s.outcomes ++ [.busReset] })

/-- R84: every other control code is a decode error that records the byte. -/
def Obligations.IllegalCodeRaisesError : Prop :=
  ∀ (s : State) (b : Byte) (rest : List Input),
    exec (.ctrlIllegal b) s =
      .next { s with rxState := .hunt, rxCc := 0x00#8, rxBuf := [],
                     outcomes := s.outcomes ++ [.decodeError .unexpectedControlCode b] } ∧
    (s.atByte .ctrl b rest → b ∉ [0x02#8, 0x00#8, 0x11#8, 0x14#8, 0x17#8] →
      step s =
        .next { s with rxState := .hunt, rxCc := 0x00#8, rxBuf := [], inputs := rest,
                       outcomes := s.outcomes ++ [.decodeError .unexpectedControlCode b] })

/-! ### State BODY -/

/-- R68: a body `DLE` opens an escape pair; nothing is appended. -/
def Obligations.BodyDleOpensEscape : Prop :=
  ∀ (s : State) (rest : List Input),
    exec .bodyDle s = .next { s with rxState := .esc, outcomes := s.outcomes ++ [.none] } ∧
    (s.atByte .body 0x10#8 rest →
      step s = .next { s with rxState := .esc, inputs := rest, outcomes := s.outcomes ++ [.none] })

/-- R11, R16: when the buffer has room and when it is within its capacity. -/
def Obligations.BufferRoomIsPayloadMax : Prop :=
  ∀ (c : Config) (n : Nat),
    (hasRoom c n = true ↔ c.payloadMax = none ∨ ∃ m, c.payloadMax = some m ∧ n < m) ∧
    (withinMax c n = true ↔ c.payloadMax = none ∨ ∃ m, c.payloadMax = some m ∧ n ≤ m)

/-- R69: a literal is appended; with a full buffer the step raises `PayloadOverrun` instead. -/
def Obligations.BodyLiteralIsAppended : Prop :=
  ∀ (s : State) (b : Byte) (rest : List Input), s.rxState = .body →
    (hasRoom s.cfg s.rxBuf.length = true →
      exec (.bodyLit b) s = .next { s with rxBuf := s.rxBuf ++ [b], outcomes := s.outcomes ++ [.none] }) ∧
    (hasRoom s.cfg s.rxBuf.length = false →
      exec (.bodyLit b) s =
        .next { s with rxState := .hunt, rxCc := 0x00#8, rxBuf := [],
                       outcomes := s.outcomes ++ [.decodeError .payloadOverrun b] }) ∧
    (s.atEvent (.byte b) rest → b ≠ 0x02#8 → b ≠ 0x10#8 →
      step s = exec (.bodyLit b) { s with inputs := rest })

/-! ### State ESC -/

/-- R70: `DLE DLE` is one literal `DLE`; with a full buffer the step raises `PayloadOverrun` instead. -/
def Obligations.EscapedDleIsOneLiteral : Prop :=
  ∀ (s : State) (rest : List Input),
    (hasRoom s.cfg s.rxBuf.length = true →
      exec .escDle s =
        .next { s with rxState := .body, rxBuf := s.rxBuf ++ [0x10#8], outcomes := s.outcomes ++ [.none] }) ∧
    (hasRoom s.cfg s.rxBuf.length = false →
      exec .escDle s =
        .next { s with rxState := .hunt, rxCc := 0x00#8, rxBuf := [],
                       outcomes := s.outcomes ++ [.decodeError .payloadOverrun 0x10#8] }) ∧
    (s.atByte .esc 0x10#8 rest → step s = exec .escDle { s with inputs := rest })

/-- R71: `DLE ETX` delivers the frame at the `ETX`, full buffer or not; the registers keep it. -/
def Obligations.EscapedEtxDeliversFrame : Prop :=
  ∀ (s : State) (rest : List Input),
    exec .escEtx s =
      .next { s with rxState := .closed, outcomes := s.outcomes ++ [.frame s.rxCc s.rxBuf] } ∧
    (s.atByte .esc 0x03#8 rest →
      step s =
        .next { s with rxState := .closed, inputs := rest, outcomes := s.outcomes ++ [.frame s.rxCc s.rxBuf] })

/-- R75, R74: an unknown escape, `DLE STX` among them, is an error or is dropped, as `ESC_POLICY` says. -/
def Obligations.UnknownEscapeFollowsPolicy : Prop :=
  ∀ (s : State) (b : Byte) (rest : List Input),
    (s.cfg.escPolicy = .reject →
      exec (.escOther b) s =
        .next { s with rxState := .hunt, rxCc := 0x00#8, rxBuf := [],
                       outcomes := s.outcomes ++ [.decodeError .unknownEscape b] }) ∧
    (s.cfg.escPolicy = .ignore →
      exec (.escOther b) s = .next { s with rxState := .body, outcomes := s.outcomes ++ [.none] }) ∧
    (s.atByte .esc b rest → b ≠ 0x10#8 → b ≠ 0x03#8 →
      step s = exec (.escOther b) { s with inputs := rest })

/-- R133: with `ignore`, a `DLE` and the wrong byte after it vanish from the payload and nothing is reported. -/
def Obligations.IgnoredEscapeLeavesNoTrace : Prop :=
  ∀ (s : State) (b : Byte) (rest : List Input),
    s.rxState = .body → s.cfg.escPolicy = .ignore → b ≠ 0x10#8 → b ≠ 0x03#8 →
    s.inputs = eventInputs [.byte 0x10#8, .byte b] ++ rest →
    runSteps 2 s = .next { s with inputs := rest, outcomes := s.outcomes ++ [.none, .none] }

/-- R45: pairing is left to right: in the body `10 10 03` is two literals, `10 10 10 03` is one literal and the
end of the frame. -/
def Obligations.EscapePairingIsLeftToRight : Prop :=
  ∀ (s : State) (rest : List Input), s.rxState = .body →
    (withinMax s.cfg (s.rxBuf.length + 2) = true →
      s.inputs = eventInputs (byteEvents [0x10#8, 0x10#8, 0x03#8]) ++ rest →
      runSteps 3 s =
        .next { s with rxBuf := s.rxBuf ++ [0x10#8, 0x03#8], inputs := rest,
                       outcomes := s.outcomes ++ [.none, .none, .none] }) ∧
    (withinMax s.cfg (s.rxBuf.length + 1) = true →
      s.inputs = eventInputs (byteEvents [0x10#8, 0x10#8, 0x10#8, 0x03#8]) ++ rest →
      runSteps 4 s =
        .next { s with rxState := .closed, rxBuf := s.rxBuf ++ [0x10#8], inputs := rest,
                       outcomes := s.outcomes ++ [.none, .none, .none, .frame s.rxCc (s.rxBuf ++ [0x10#8])] })

/-! ### State CLOSED -/

/-- R89: `ACK` ends the status-byte window and changes nothing else. -/
def Obligations.ClosedAckEndsWindow : Prop :=
  ∀ (s : State) (rest : List Input),
    exec .closedAck s = .next { s with rxState := .hunt, outcomes := s.outcomes ++ [.none] } ∧
    (s.atByte .closed 0x06#8 rest →
      step s = .next { s with rxState := .hunt, inputs := rest, outcomes := s.outcomes ++ [.none] })

/-- R90: `NAK` marks the frame that `rx_cc` and `rx_buf` still hold. -/
def Obligations.ClosedNakMarksFrame : Prop :=
  ∀ (s : State) (rest : List Input),
    exec .closedNak s =
      .next { s with rxState := .hunt, rxRejected := true, outcomes := s.outcomes ++ [.none] } ∧
    (s.atByte .closed 0x15#8 rest →
      step s =
        .next { s with rxState := .hunt, rxRejected := true, inputs := rest, outcomes := s.outcomes ++ [.none] })

/-- R92: any other byte is consumed as the status byte and dropped. -/
def Obligations.ClosedSwallowsOtherByte : Prop :=
  ∀ (s : State) (b : Byte) (rest : List Input),
    exec (.closedOther b) s = .next { s with rxState := .hunt, outcomes := s.outcomes ++ [.none] } ∧
    (s.atByte .closed b rest → b ∉ [0x06#8, 0x15#8, 0x02#8] →
      step s = .next { s with rxState := .hunt, inputs := rest, outcomes := s.outcomes ++ [.none] })

/-! ### The Timeout event -/

/-- R94: outside CLOSED a timeout keeps every register. -/
def Obligations.TimeoutKeepsRegisters : Prop :=
  ∀ (s : State) (rest : List Input),
    (∀ i ∈ [Instr.huntTimeout, .ctrlTimeout, .bodyTimeout, .escTimeout],
      exec i s = .next { s with outcomes := s.outcomes ++ [.timeout] }) ∧
    (s.rxState ≠ .closed → s.atEvent .timeout rest →
      step s = .next { s with inputs := rest, outcomes := s.outcomes ++ [.timeout] })

/-- R95: in CLOSED a timeout closes the status-byte window. -/
def Obligations.TimeoutClosesStatusWindow : Prop :=
  ∀ (s : State) (rest : List Input),
    exec .closedTimeout s = .next { s with rxState := .hunt, outcomes := s.outcomes ++ [.timeout] } ∧
    (s.rxState = .closed → s.atEvent .timeout rest →
      step s = .next { s with rxState := .hunt, inputs := rest, outcomes := s.outcomes ++ [.timeout] })

/-- R94, R95, R131: any length of silence keeps a partial frame, state ESC included; in CLOSED it only closes the
window. -/
def Obligations.SilenceKeepsPartialFrame : Prop :=
  ∀ (s : State) (n : Nat) (rest : List Input),
    s.inputs = eventInputs (List.replicate n .timeout) ++ rest →
    runSteps n s =
      .next { s with rxState := (if s.rxState = .closed ∧ 0 < n then .hunt else s.rxState), inputs := rest,
                     outcomes := s.outcomes ++ List.replicate n .timeout }

/-! ### Transmit -/

/-- R55, R56, R57 with the layout of R40 and R41: the pseudocode's loop emits `STX`, the stuffed control code,
the stuffed payload, `DLE ETX`, for every control code and payload, and writes nothing else. -/
def Obligations.EncodeEmitsWireFrame : Prop :=
  ∀ (s : State) (cc : Byte) (p : List Byte) (rest : List Input),
    exec (.encode cc p) s =
      .next { s with txStream :=
        s.txStream ++
          ([0x02#8] ++ (cc :: p).flatMap (fun b => if b = 0x10#8 then [0x10#8, 0x10#8] else [b]) ++
            [0x10#8, 0x03#8]) } ∧
    (s.inputs = .tx (.encode cc p) :: rest → step s = exec (.encode cc p) { s with inputs := rest })

/-- R60, R61: the two status bytes. -/
def Obligations.StatusBytesAreEmitted : Prop :=
  ∀ (s : State) (rest : List Input),
    exec .txAck s = .next { s with txStream := s.txStream ++ [0x06#8] } ∧
    exec .txNak s = .next { s with txStream := s.txStream ++ [0x15#8] } ∧
    (s.inputs = .tx .ack :: rest →
      step s = .next { s with inputs := rest, txStream := s.txStream ++ [0x06#8] }) ∧
    (s.inputs = .tx .nak :: rest →
      step s = .next { s with inputs := rest, txStream := s.txStream ++ [0x15#8] })

/-- R58: the length of what `ENCODE` emits, its bounds and when they are met, its first and last bytes, and the
parity of its runs of `0x10` (a maximal run after the first byte is even, but the one before the final `ETX`,
which is odd). -/
def Obligations.EncodeLengthLaw : Prop :=
  ∀ (s : State) (cc : Byte) (p : List Byte), ∃ bs : List Byte,
    exec (.encode cc p) s = .next { s with txStream := s.txStream ++ bs } ∧
    bs.length = 4 + p.length + (cc :: p).count 0x10#8 ∧
    4 + p.length ≤ bs.length ∧ bs.length ≤ 5 + 2 * p.length ∧
    (bs.length = 4 + p.length ↔ 0x10#8 ∉ cc :: p) ∧
    (bs.length = 5 + 2 * p.length ↔ ∀ b ∈ cc :: p, b = 0x10#8) ∧
    bs.head? = some 0x02#8 ∧ (∃ front, bs = front ++ [0x10#8, 0x03#8]) ∧
    ∀ (before after : List Byte) (n : Nat), bs.tail = before ++ List.replicate n 0x10#8 ++ after → 0 < n →
      before.getLast? ≠ some 0x10#8 → after.head? ≠ some 0x10#8 →
      n % 2 = if after = [0x03#8] then 1 else 0

/-- R59, R62: run to the end of the inputs, the TX stream has grown by exactly the bytes of the transmit commands among
them, each command's contiguous and in command order, whatever events, frames and resets stood between. That a hard
reset among them leaves the bytes already emitted is the model's choice (log entry 4), and so is the one list of
inputs with a command as one step (log entry 2). -/
def Obligations.TxStreamIsCommandBytesInOrder : Prop :=
  ∀ s : State, ∃ t,
    runSteps s.inputs.length s = .next t ∧ t.inputs = [] ∧
    t.txStream = s.txStream ++ s.inputs.flatMap txBytes

/-- R36: a transmit command and an RX step do not touch one another: either order gives one state, the RX step
emits nothing, the command changes no register and no outcome, and nothing is looped back to the inputs. -/
def Obligations.TxAndRxCommute : Prop :=
  ∀ (s : State) (c : TxCmd) (e : RxEvent) (rest : List Input), ∃ t u v,
    runSteps 2 { s with inputs := .tx c :: .event e :: rest } = .next t ∧
    runSteps 2 { s with inputs := .event e :: .tx c :: rest } = .next t ∧
    step { s with inputs := .tx c :: rest } = .next u ∧
    step { s with inputs := .event e :: rest } = .next v ∧
    t.inputs = rest ∧
    t.txStream = u.txStream ∧ v.txStream = s.txStream ∧
    hostRead t = hostRead v ∧ t.outcomes = v.outcomes ∧
    hostRead u = hostRead s ∧ u.outcomes = s.outcomes

/-- R36, R62: with the transmit commands taken out of the inputs, the receiver ends with the same registers and the same
outcomes. The one list of inputs is the model's choice (log entry 2). -/
def Obligations.ReceiverIgnoresTransmitCommands : Prop :=
  ∀ s : State, ∃ t u,
    runSteps s.inputs.length s = .next t ∧
    runSteps (s.inputs.filter fun i => !isTx i).length { s with inputs := s.inputs.filter fun i => !isTx i } =
      .next u ∧
    hostRead t = hostRead u ∧ t.outcomes = u.outcomes

/-! ### Frame-level rows -/

/-- R48, R53, R80 to R84: for every control code, payload and start state, a frame row completes and is the run
of the byte steps over the bytes of its wire frame. That a FRAME row is one step is the model's reading
(log entry 6). -/
def Obligations.FrameRowIsByteRun : Prop :=
  ∀ (s : State) (cc : Byte) (p : List Byte) (rest : List Input),
    s.inputs = eventInputs (byteEvents (wire cc p)) ++ rest →
    ∃ t, exec (decodeFrame cc p) { s with inputs := rest } = .next t ∧
      runSteps (wire cc p).length s = .next t

/-- R48, R73, R76: an accepted frame whose payload has no `0x02` and fits is delivered, empty or not, from any state but
ESC. That the row is one step over all the bytes of the wire frame, with one output for each, is the model's choice
(log entry 6). Other payloads and the start state ESC are in `FrameRowIsByteRun`. -/
def Obligations.AcceptedFrameRowDelivers : Prop :=
  ∀ (s : State) (p : List Byte),
    ∀ r ∈ [(Instr.frameData p, 0x00#8), (.frameStatusinfo p, 0x11#8), (.frameGsmStatusinfo p, 0x17#8)],
      s.rxState ≠ .esc → 0x02#8 ∉ p → withinMax s.cfg p.length = true →
      exec r.1 s =
        .next { s with rxState := .closed, rxCc := r.2, rxBuf := p, rxRejected := false,
                       outcomes := s.outcomes ++ List.replicate (p.length + p.count 0x10#8 + 3) .none ++
                         [.frame r.2 p] }

/-- R48, R83, R65: an `MDB_RESET` frame gives `BusReset` at its control-code byte; its rest is dropped in HUNT. That the
row is one step over all the bytes of the wire frame, with one output for each, is the model's choice (log entry 6).
Payloads with `0x02` and the start state ESC are in `FrameRowIsByteRun`. -/
def Obligations.MdbResetFrameRowRaisesBusReset : Prop :=
  ∀ (s : State) (p : List Byte), s.rxState ≠ .esc → 0x02#8 ∉ p →
    exec (.frameMdbReset p) s =
      .next { s with rxState := .hunt, rxCc := 0x00#8, rxBuf := [], rxRejected := false,
                     outcomes := s.outcomes ++ [.none, .busReset] ++
                       List.replicate (p.length + p.count 0x10#8 + 2) .none }

/-- R48, R84, R85, R79: a frame with any other control code is an error at that byte, judged unstuffed, and its rest is
dropped in HUNT; the code `0x02` is a second frame start and is not validated. That the row is one step over all the
bytes of the wire frame, with one output for each, is the model's choice (log entry 6). Payloads with `0x02` under
another code and the start state ESC are in `FrameRowIsByteRun`. -/
def Obligations.IllegalFrameRowIsRejected : Prop :=
  ∀ (s : State) (cc : Byte) (p : List Byte), s.rxState ≠ .esc →
    (cc ∉ [0x00#8, 0x11#8, 0x14#8, 0x17#8, 0x02#8] → 0x02#8 ∉ p →
      exec (.frameIllegal cc p) s =
        .next { s with rxState := .hunt, rxCc := 0x00#8, rxBuf := [], rxRejected := false,
                       outcomes := s.outcomes ++ [.none, .decodeError .unexpectedControlCode cc] ++
                         List.replicate (p.length + (cc :: p).count 0x10#8 + 2) .none }) ∧
    exec (.frameIllegal 0x02#8 p) s =
      .next (rxRun (byteEvents (stuffAll p ++ [0x10#8, 0x03#8]))
        { s with rxState := .ctrl, rxCc := 0x00#8, rxBuf := [], rxRejected := false,
                 outcomes := s.outcomes ++ [.none, .none] })

/-! ### Whole streams -/

/-- R76: the round trip. The bytes `ENCODE` emits, with every `0x10` of the control code and the payload doubled,
fed to a receiver in any state but ESC with any number of timeouts before, between and after them, give `None` for
every byte but the last, `Timeout` for every timeout, and the frame at the last byte, for both policies. -/
def Obligations.EncodedFrameIsReceived : Prop :=
  ∀ (u : State) (cc : Byte) (p : List Byte), ∃ bs : List Byte,
    exec (.encode cc p) u = .next { u with txStream := u.txStream ++ bs } ∧
    bs = [0x02#8] ++ (cc :: p).flatMap (fun b => if b = 0x10#8 then [0x10#8, 0x10#8] else [b]) ++
      [0x10#8, 0x03#8] ∧
    ∀ (s : State) (pre : List RxEvent) (k : Nat) (rest : List Input),
      cc ∈ [0x00#8, 0x11#8, 0x17#8] → 0x02#8 ∉ p → withinMax s.cfg p.length = true → s.rxState ≠ .esc →
      bytesOf pre ++ [0x03#8] = bs →
      s.inputs = eventInputs (pre ++ [.byte 0x03#8] ++ List.replicate k .timeout) ++ rest →
      runSteps (pre.length + 1 + k) s =
        .next { s with rxState := (if k = 0 then .closed else .hunt), rxCc := cc, rxBuf := p,
                       rxRejected := false, inputs := rest,
                       outcomes := s.outcomes ++ pre.map quietOutput ++ [.frame cc p] ++
                         List.replicate k .timeout }

/-- R65, R115, R132: in HUNT everything up to the next `0x02` is dropped without report. -/
def Obligations.HuntDropsUntilStx : Prop :=
  ∀ (s : State) (es : List RxEvent) (rest : List Input),
    s.rxState = .hunt → 0x02#8 ∉ bytesOf es → s.inputs = eventInputs es ++ rest →
    runSteps es.length s = .next { s with inputs := rest, outcomes := s.outcomes ++ es.map quietOutput }

/-- R37, R66: outside ESC the byte `0x02` resynchronises: two receivers with the same parameters, whatever their
registers, give the same outputs from it on and end with the same registers. -/
def Obligations.StxResynchronises : Prop :=
  ∀ (s u : State) (es : List RxEvent), s.cfg = u.cfg → s.rxState ≠ .esc → u.rxState ≠ .esc →
    s.inputs = eventInputs (.byte 0x02#8 :: es) → u.inputs = eventInputs (.byte 0x02#8 :: es) →
    ∃ (t v : State) (log : List RxOut),
      runSteps (es.length + 1) s = .next t ∧ runSteps (es.length + 1) u = .next v ∧
      hostRead t = hostRead v ∧ t.outcomes = s.outcomes ++ log ∧ v.outcomes = u.outcomes ++ log

/-- R128: a body `0x02` is not transported. Whatever stands before the last `0x02` of a payload is discarded, and
when an accepted code and a payload that fits follow it, those are delivered as a well-formed but wrong frame. Any other
byte there is in `BodyStxRaisesFalseReport`. -/
def Obligations.BodyStxDeliversWrongFrame : Prop :=
  ∀ (s : State) (cc c : Byte) (before after : List Byte) (rest : List Input),
    s.rxState ≠ .esc → c ∈ [0x00#8, 0x11#8, 0x17#8] → 0x02#8 ∉ after →
    withinMax s.cfg after.length = true →
    s.inputs = eventInputs (byteEvents (wire cc (before ++ 0x02#8 :: c :: after))) ++ rest →
    ∃ (t : State) (log : List RxOut),
      runSteps (wire cc (before ++ 0x02#8 :: c :: after)).length s = .next t ∧
      hostRead t = ⟨.closed, c, after, false⟩ ∧
      t.outcomes = s.outcomes ++ log ++ List.replicate (after.length + after.count 0x10#8 + 3) .none ++
        [.frame c after]

/-- R131, R74: a stale ESC survives silence, and the next frame pays for it. With `reject` its `STX` is an
unknown escape and the frame is dropped whole; with `ignore` it is spliced to the stale payload. -/
def Obligations.StaleEscapeCostsAFrame : Prop :=
  ∀ (s : State) (n : Nat) (cc : Byte) (p : List Byte) (rest : List Input),
    s.rxState = .esc → 0x02#8 ∉ cc :: p →
    s.inputs = eventInputs (List.replicate n .timeout ++ byteEvents (wire cc p)) ++ rest →
    (s.cfg.escPolicy = .reject →
      runSteps (n + (wire cc p).length) s =
        .next { s with rxState := .hunt, rxCc := 0x00#8, rxBuf := [], inputs := rest,
                       outcomes := s.outcomes ++ List.replicate n .timeout ++
                         [.decodeError .unknownEscape 0x02#8] ++
                         List.replicate ((wire cc p).length - 1) .none }) ∧
    (s.cfg.escPolicy = .ignore → withinMax s.cfg (s.rxBuf ++ cc :: p).length = true →
      runSteps (n + (wire cc p).length) s =
        .next { s with rxState := .closed, rxBuf := s.rxBuf ++ cc :: p, inputs := rest,
                       outcomes := s.outcomes ++ List.replicate n .timeout ++
                         List.replicate ((wire cc p).length - 1) .none ++
                         [.frame s.rxCc (s.rxBuf ++ cc :: p)] })

/-- R135: with a finite `PAYLOAD_MAX` a longer payload, which `ENCODE` emits all the same, is reported as
`PayloadOverrun` at the first byte that does not fit, and the frame is lost whole. -/
def Obligations.OverlongPayloadIsLostWhole : Prop :=
  ∀ (s : State) (cc b : Byte) (front back : List Byte) (rest : List Input),
    cc ∈ [0x00#8, 0x11#8, 0x17#8] → s.cfg.payloadMax = some front.length → s.rxState ≠ .esc →
    0x02#8 ∉ front ++ b :: back →
    (∃ u, exec (.encode cc (front ++ b :: back)) s = .next u ∧
      u.txStream = s.txStream ++ wire cc (front ++ b :: back)) ∧
    (s.inputs = eventInputs (byteEvents (wire cc (front ++ b :: back))) ++ rest →
      runSteps (wire cc (front ++ b :: back)).length s =
        .next { s with rxState := .hunt, rxCc := 0x00#8, rxBuf := [], rxRejected := false, inputs := rest,
                       outcomes := s.outcomes ++
                         List.replicate
                           (2 + front.length + front.count 0x10#8 + (if b = 0x10#8 then 1 else 0)) .none ++
                         [.decodeError .payloadOverrun b] ++
                         List.replicate (back.length + back.count 0x10#8 + 2) .none })

/-! ### The decode call -/

/-- R97: `DECODE` returns the first output that is not `None`, with exactly the events up to it consumed; the machine,
stepped over the same events, reaches the same state. A call is read over a finite part of its source, which is the
model's choice (log entry 12). -/
def Obligations.DecodeCallReturnsFirstOutcome : Prop :=
  ∀ (es : List RxEvent) (s : State),
    (∀ (o : RxOut) (rest : List RxEvent) (t : State),
      decodeCall es s = .returned o rest t ↔
        ∃ (pre : List RxEvent) (e : RxEvent), es = pre ++ e :: rest ∧
          (rxRun pre s).outcomes = s.outcomes ++ List.replicate pre.length .none ∧
          o ≠ .none ∧ t = rxRun (pre ++ [e]) s ∧
          t.outcomes = s.outcomes ++ List.replicate pre.length .none ++ [o]) ∧
    (∀ (o : RxOut) (rest : List RxEvent) (t : State) (later : List Input),
      decodeCall es s = .returned o rest t → s.inputs = eventInputs es ++ later →
      runSteps (es.length - rest.length) s = .next { t with inputs := eventInputs rest ++ later })

/-- R98: `DECODE` returns if and only if some event of the source has an outcome; a `Timeout` guarantees it, and an
endless run of `0x41` in HUNT never does. A call is read over a finite part of its source, and answers `waiting` when
it has not returned, which is the model's choice (log entry 12). -/
def Obligations.DecodeCallReturnsIffSomethingToReport : Prop :=
  ∀ (es : List RxEvent) (s : State),
    ((∃ o rest t, decodeCall es s = .returned o rest t) ↔
      (rxRun es s).outcomes ≠ s.outcomes ++ List.replicate es.length .none) ∧
    (.timeout ∈ es → ∃ o rest t, decodeCall es s = .returned o rest t) ∧
    (∀ n, s.rxState = .hunt →
      decodeCall (List.replicate n (.byte 0x41#8)) s =
        .waiting { s with outcomes := s.outcomes ++ List.replicate n .none })

/-- R99: what the next call begins with: (a) after `Frame`, state CLOSED, so its first byte is the status byte;
(b) after a `Timeout` inside a frame, that frame; (c) after an error or `BusReset`, HUNT, where the remainder
of the frame is dropped. A call is read over a finite part of its source, which is the
model's choice (log entry 12). -/
def Obligations.NextDecodeCallContinues : Prop :=
  ∀ (es : List RxEvent) (s t : State) (o : RxOut) (rest : List RxEvent),
    decodeCall es s = .returned o rest t →
    (∀ cc p, o = .frame cc p →
      t.rxState = .closed ∧ t.rxCc = cc ∧ t.rxBuf = p ∧
      ∀ b : Byte, b ≠ 0x02#8 →
        hostRead (rxStep (.byte b) t) = ⟨.hunt, cc, p, t.rxRejected || b == 0x15#8⟩) ∧
    (o = .timeout → ∃ pre, es = pre ++ .timeout :: rest ∧
      ((rxRun pre s).rxState ≠ .closed → hostRead t = hostRead (rxRun pre s))) ∧
    ((o = .busReset ∨ ∃ kind b, o = .decodeError kind b) →
      t.rxState = .hunt ∧
      ∀ (tail : List Byte) (fs : List RxEvent), 0x02#8 ∉ tail →
        decodeCall (byteEvents tail ++ fs) t =
          decodeCall fs { t with outcomes := t.outcomes ++ List.replicate tail.length .none })

/-! ### Outcomes and errors -/

/-- R103: what an RX step can report, when, and with which value; transmit commands and `RxReset` report
nothing. -/
def Obligations.OutcomesAndTheirCauses : Prop :=
  ∀ (s : State) (rest : List Input),
    (∀ e : RxEvent, s.atEvent e rest →
      ∃ (t : State) (o : RxOut), step s = .next t ∧ t.outcomes = s.outcomes ++ [o] ∧
        (∀ b, o = .decodeError .unexpectedControlCode b ↔
          s.rxState = .ctrl ∧ e = .byte b ∧ b ∉ [0x02#8, 0x00#8, 0x11#8, 0x14#8, 0x17#8]) ∧
        (∀ b, o = .decodeError .unknownEscape b ↔
          s.rxState = .esc ∧ e = .byte b ∧ b ∉ [0x10#8, 0x03#8] ∧ s.cfg.escPolicy = .reject) ∧
        (∀ b, o = .decodeError .payloadOverrun b ↔
          e = .byte b ∧ hasRoom s.cfg s.rxBuf.length = false ∧
            (s.rxState = .body ∧ b ∉ [0x02#8, 0x10#8] ∨ s.rxState = .esc ∧ b = 0x10#8)) ∧
        (o = .busReset ↔ s.rxState = .ctrl ∧ e = .byte 0x14#8) ∧
        (o = .timeout ↔ e = .timeout) ∧
        (∀ cc p, o = .frame cc p ↔
          s.rxState = .esc ∧ e = .byte 0x03#8 ∧ cc = s.rxCc ∧ p = s.rxBuf)) ∧
    (∀ inp : Input, isTx inp = true ∨ inp = .rxReset → s.inputs = inp :: rest →
      ∃ t, step s = .next t ∧ t.outcomes = s.outcomes)

/-- R109, R110: the state change of every `DecodeError`, whatever its kind, and of `BusReset`: HUNT, the frame
registers cleared, `rx_rejected` and all else kept, in the step of the byte that caused it. -/
def Obligations.ErrorEntryStateChange : Prop :=
  ∀ (s t : State) (e : RxEvent) (o : RxOut) (rest : List Input),
    s.atEvent e rest → step s = .next t → t.outcomes = s.outcomes ++ [o] →
    (o = .busReset ∨ ∃ kind b, o = .decodeError kind b) →
    t = { s with rxState := .hunt, rxCc := 0x00#8, rxBuf := [], inputs := rest,
                 outcomes := s.outcomes ++ [o] } ∧
    ∀ kind b, o = .decodeError kind b → e = .byte b

/-- R102: the next state of every state and event. -/
def Obligations.NextStateTable : Prop :=
  ∀ (s : State) (e : RxEvent) (rest : List Input), s.atEvent e rest →
    ∃ t, step s = .next t ∧
      t.rxState = nextState s.cfg.escPolicy (hasRoom s.cfg s.rxBuf.length) s.rxState e

/-- R17: `rx_rejected` is set by `CLOSED.NAK` alone, cleared by every frame start, by `RxReset` and by hard
reset, written by nothing else, and read by no step. -/
def Obligations.RejectedFlagLife : Prop :=
  ∀ (s : State) (rest : List Input),
    (∀ e : RxEvent, s.atEvent e rest →
      ∃ t, step s = .next t ∧
        t.rxRejected =
          (if s.rxState = .closed ∧ e = .byte 0x15#8 then true
           else if s.rxState ≠ .esc ∧ e = .byte 0x02#8 then false
           else s.rxRejected)) ∧
    (s.inputs = .rxReset :: rest ∨ s.inputs = .hardReset :: rest →
      ∃ t, step s = .next t ∧ t.rxRejected = false) ∧
    (∀ c : TxCmd, s.inputs = .tx c :: rest → ∃ t, step s = .next t ∧ t.rxRejected = s.rxRejected) ∧
    (∀ r : Bool, ∃ (t : State) (q : Bool),
      step s = .next t ∧ step { s with rxRejected := r } = .next { t with rxRejected := q })

/-! ### The whole machine -/

/-- R138: the block never stalls and never refuses: every step and every instruction goes on, in every state. -/
def Obligations.BlockNeverStops : Prop :=
  (∀ s : State, ∃ t, step s = .next t) ∧ (∀ (i : Instr) (s : State), ∃ t, exec i s = .next t)

/-- R8, R12, R21: a step on an event takes exactly that event, never skips and never re-reads; it appends one output,
and the cursor advances by one; a step on a command or a reset takes no event and gives no output. Three clauses are the
model's choice: that any entry of the one list of inputs is one step (log entry 2), that a `wire` entry takes the
many events of its wire frame in one step, which R12 and R21 do not say of an RX step (log entry 6), and the record of
outcomes with its length as the cursor (log entry 3). -/
def Obligations.OneEntryPerStep : Prop :=
  ∀ (s : State) (inp : Input) (rest : List Input), s.inputs = inp :: rest →
    ∃ (t : State) (new : List RxOut), step s = .next t ∧ t.inputs = rest ∧
      t.outcomes = s.outcomes ++ new ∧ new.length = outputCount inp ∧
      rxCursor t = rxCursor s + outputCount inp

/-- R7, R121, R123: the parameters do not change while the block runs, resets included. That State carries
them is the model's choice (log entry 1). -/
def Obligations.ParametersAreStatic : Prop :=
  ∀ s t : State, step s = .next t → t.cfg = s.cfg

/-- R18: the reset state has one of the forms of the table. -/
def Obligations.ResetFormIsLegal : Prop :=
  State.reset.legal ∧ State.reset.deliveredValid

/-- R18: only the combinations of the table occur: the reset state is one, and every step from one, whatever is
presented, leads to one. -/
def Obligations.OnlyLegalFormsOccur : Prop :=
  State.reset.legal ∧ ∀ s t : State, s.legal → step s = .next t → t.legal

/-- R72, R88: from a legal state every frame a step delivers has the code `0x00`, `0x11` or `0x17`, no `0x02` in
its payload, and fits; and `0x14` is not in `rx_cc`. -/
def Obligations.DeliveredFramesAreValid : Prop :=
  ∀ s t : State, s.legal → s.deliveredValid → step s = .next t →
    t.deliveredValid ∧ t.rxCc ≠ 0x14#8

/-- R128: the other two results of a body `0x02`: when the byte after the last `0x02` of a payload is no accepted
code, the receiver reports an `UnexpectedControlCode`, or a false `BusReset` if it is `0x14`, at that byte, and drops
the rest in HUNT; no frame is delivered for what follows. -/
def Obligations.BodyStxRaisesFalseReport : Prop :=
  ∀ (s : State) (cc c : Byte) (before after : List Byte) (rest : List Input),
    s.rxState ≠ .esc → c ∉ [0x00#8, 0x11#8, 0x17#8, 0x02#8] → 0x02#8 ∉ after →
    s.inputs = eventInputs (byteEvents (wire cc (before ++ 0x02#8 :: c :: after))) ++ rest →
    ∃ (t : State) (log : List RxOut),
      runSteps (wire cc (before ++ 0x02#8 :: c :: after)).length s = .next t ∧
      hostRead t = ⟨.hunt, 0x00#8, [], false⟩ ∧
      t.outcomes = s.outcomes ++ log ++
        [.none, if c = 0x14#8 then .busReset else .decodeError .unexpectedControlCode c] ++
        List.replicate (after.length + (c :: after).count 0x10#8 + 2) .none
end

