-- ==== Sys2Proof/Laws/State.lean ====
section
/-! SUPPORT. One lemma per field of State per update, each true by rfl, for the simp set. -/

namespace Sys2Proof.Machine

variable (s : State)

/-! ### goto -/

@[simp] theorem goto_rxState (st : RxState) : (goto st s).rxState = st := rfl
@[simp] theorem goto_rxCc (st : RxState) : (goto st s).rxCc = s.rxCc := rfl
@[simp] theorem goto_rxBuf (st : RxState) : (goto st s).rxBuf = s.rxBuf := rfl
@[simp] theorem goto_rxRejected (st : RxState) : (goto st s).rxRejected = s.rxRejected := rfl
@[simp] theorem goto_cfg (st : RxState) : (goto st s).cfg = s.cfg := rfl
@[simp] theorem goto_inputs (st : RxState) : (goto st s).inputs = s.inputs := rfl
@[simp] theorem goto_txStream (st : RxState) : (goto st s).txStream = s.txStream := rfl
@[simp] theorem goto_outcomes (st : RxState) : (goto st s).outcomes = s.outcomes := rfl

/-! ### setCc -/

@[simp] theorem setCc_rxState (v : Byte) : (setCc v s).rxState = s.rxState := rfl
@[simp] theorem setCc_rxCc (v : Byte) : (setCc v s).rxCc = v := rfl
@[simp] theorem setCc_rxBuf (v : Byte) : (setCc v s).rxBuf = s.rxBuf := rfl
@[simp] theorem setCc_rxRejected (v : Byte) : (setCc v s).rxRejected = s.rxRejected := rfl
@[simp] theorem setCc_cfg (v : Byte) : (setCc v s).cfg = s.cfg := rfl
@[simp] theorem setCc_inputs (v : Byte) : (setCc v s).inputs = s.inputs := rfl
@[simp] theorem setCc_txStream (v : Byte) : (setCc v s).txStream = s.txStream := rfl
@[simp] theorem setCc_outcomes (v : Byte) : (setCc v s).outcomes = s.outcomes := rfl

/-! ### bufClear -/

@[simp] theorem bufClear_rxState : (bufClear s).rxState = s.rxState := rfl
@[simp] theorem bufClear_rxCc : (bufClear s).rxCc = s.rxCc := rfl
@[simp] theorem bufClear_rxBuf : (bufClear s).rxBuf = [] := rfl
@[simp] theorem bufClear_rxRejected : (bufClear s).rxRejected = s.rxRejected := rfl
@[simp] theorem bufClear_cfg : (bufClear s).cfg = s.cfg := rfl
@[simp] theorem bufClear_inputs : (bufClear s).inputs = s.inputs := rfl
@[simp] theorem bufClear_txStream : (bufClear s).txStream = s.txStream := rfl
@[simp] theorem bufClear_outcomes : (bufClear s).outcomes = s.outcomes := rfl

/-! ### setRejected -/

@[simp] theorem setRejected_rxState : (setRejected s).rxState = s.rxState := rfl
@[simp] theorem setRejected_rxCc : (setRejected s).rxCc = s.rxCc := rfl
@[simp] theorem setRejected_rxBuf : (setRejected s).rxBuf = s.rxBuf := rfl
@[simp] theorem setRejected_rxRejected : (setRejected s).rxRejected = true := rfl
@[simp] theorem setRejected_cfg : (setRejected s).cfg = s.cfg := rfl
@[simp] theorem setRejected_inputs : (setRejected s).inputs = s.inputs := rfl
@[simp] theorem setRejected_txStream : (setRejected s).txStream = s.txStream := rfl
@[simp] theorem setRejected_outcomes : (setRejected s).outcomes = s.outcomes := rfl

/-! ### clearRejected -/

@[simp] theorem clearRejected_rxState : (clearRejected s).rxState = s.rxState := rfl
@[simp] theorem clearRejected_rxCc : (clearRejected s).rxCc = s.rxCc := rfl
@[simp] theorem clearRejected_rxBuf : (clearRejected s).rxBuf = s.rxBuf := rfl
@[simp] theorem clearRejected_rxRejected : (clearRejected s).rxRejected = false := rfl
@[simp] theorem clearRejected_cfg : (clearRejected s).cfg = s.cfg := rfl
@[simp] theorem clearRejected_inputs : (clearRejected s).inputs = s.inputs := rfl
@[simp] theorem clearRejected_txStream : (clearRejected s).txStream = s.txStream := rfl
@[simp] theorem clearRejected_outcomes : (clearRejected s).outcomes = s.outcomes := rfl

/-! ### out -/

@[simp] theorem out_rxState (o : RxOut) : (out o s).rxState = s.rxState := rfl
@[simp] theorem out_rxCc (o : RxOut) : (out o s).rxCc = s.rxCc := rfl
@[simp] theorem out_rxBuf (o : RxOut) : (out o s).rxBuf = s.rxBuf := rfl
@[simp] theorem out_rxRejected (o : RxOut) : (out o s).rxRejected = s.rxRejected := rfl
@[simp] theorem out_cfg (o : RxOut) : (out o s).cfg = s.cfg := rfl
@[simp] theorem out_inputs (o : RxOut) : (out o s).inputs = s.inputs := rfl
@[simp] theorem out_txStream (o : RxOut) : (out o s).txStream = s.txStream := rfl
@[simp] theorem out_outcomes (o : RxOut) : (out o s).outcomes = s.outcomes ++ [o] := rfl

/-! ### txPut -/

@[simp] theorem txPut_rxState (v : Byte) : (txPut v s).rxState = s.rxState := rfl
@[simp] theorem txPut_rxCc (v : Byte) : (txPut v s).rxCc = s.rxCc := rfl
@[simp] theorem txPut_rxBuf (v : Byte) : (txPut v s).rxBuf = s.rxBuf := rfl
@[simp] theorem txPut_rxRejected (v : Byte) : (txPut v s).rxRejected = s.rxRejected := rfl
@[simp] theorem txPut_cfg (v : Byte) : (txPut v s).cfg = s.cfg := rfl
@[simp] theorem txPut_inputs (v : Byte) : (txPut v s).inputs = s.inputs := rfl
@[simp] theorem txPut_txStream (v : Byte) : (txPut v s).txStream = s.txStream ++ [v] := rfl
@[simp] theorem txPut_outcomes (v : Byte) : (txPut v s).outcomes = s.outcomes := rfl

/-! ### setInputs -/

@[simp] theorem setInputs_rxState (l : List Input) : (setInputs l s).rxState = s.rxState := rfl
@[simp] theorem setInputs_rxCc (l : List Input) : (setInputs l s).rxCc = s.rxCc := rfl
@[simp] theorem setInputs_rxBuf (l : List Input) : (setInputs l s).rxBuf = s.rxBuf := rfl
@[simp] theorem setInputs_rxRejected (l : List Input) : (setInputs l s).rxRejected = s.rxRejected := rfl
@[simp] theorem setInputs_cfg (l : List Input) : (setInputs l s).cfg = s.cfg := rfl
@[simp] theorem setInputs_inputs (l : List Input) : (setInputs l s).inputs = l := rfl
@[simp] theorem setInputs_txStream (l : List Input) : (setInputs l s).txStream = s.txStream := rfl
@[simp] theorem setInputs_outcomes (l : List Input) : (setInputs l s).outcomes = s.outcomes := rfl

end Sys2Proof.Machine
end

