-- ==== Sys2Proof/Laws/Wire.lean ====
section
/-! SUPPORT. The equations of stuffing and unstuffing (spec R40, R41, R45), so that no later proof unfolds them. -/

namespace Sys2Proof

@[simp] theorem stuff_dle : stuff DLE = [DLE, DLE] := rfl

theorem stuff_of_ne {b : Byte} (h : b ≠ DLE) : stuff b = [b] := if_neg h

@[simp] theorem stuffAll_nil : stuffAll [] = [] := rfl

@[simp] theorem stuffAll_cons (b : Byte) (bs : List Byte) : stuffAll (b :: bs) = stuff b ++ stuffAll bs := by
  simp [stuffAll]

@[simp] theorem stuffAll_append (bs cs : List Byte) : stuffAll (bs ++ cs) = stuffAll bs ++ stuffAll cs := by
  simp [stuffAll]

theorem wire_eq (cc : Byte) (p : List Byte) : wire cc p = STX :: (stuffAll (cc :: p) ++ [DLE, ETX]) := by
  simp [wire]

theorem unstuffBody_pair (rest : List Byte) :
    unstuffBody (DLE :: DLE :: rest) = (unstuffBody rest).map (DLE :: ·) := by
  simp [unstuffBody]

theorem unstuffBody_end : unstuffBody [DLE, ETX] = .ok [] := by
  simp [unstuffBody, show ETX ≠ DLE by decide]

theorem unstuffBody_lit {a : Byte} (h : a ≠ DLE) {rest : List Byte} (hr : rest ≠ []) :
    unstuffBody (a :: rest) = (unstuffBody rest).map (a :: ·) := by
  cases rest with
  | nil => exact absurd rfl hr
  | cons b rest => simp [unstuffBody, h]

end Sys2Proof
end

