-- ==== Sys2Proof/Laws/Ops.lean ====
section
/-! SUPPORT. For each shared operation one lemma that says all it does (spec R11, R66, R109, R110, R55, R101). -/

namespace Sys2Proof.Machine

variable (s : State)

theorem startFrame_eq :
    startFrame s =
      { s with rxState := .ctrl, rxCc := 0x00#8, rxBuf := [], rxRejected := false,
               outcomes := s.outcomes ++ [.none] } := rfl

theorem raiseOutcome_eq (o : RxOut) :
    raiseOutcome o s =
      { s with rxState := .hunt, rxCc := 0x00#8, rxBuf := [], outcomes := s.outcomes ++ [o] } := rfl

theorem acceptCode_eq (cc : Byte) :
    acceptCode cc s =
      { s with rxState := .body, rxCc := cc, outcomes := s.outcomes ++ [.none] } := rfl

theorem closeWindow_eq :
    closeWindow s = { s with rxState := .hunt, outcomes := s.outcomes ++ [.none] } := rfl

theorem resetRegs_eq :
    resetRegs s = { s with rxState := .hunt, rxCc := 0x00#8, rxBuf := [], rxRejected := false } := rfl

theorem bufAppend_room {v : Byte} (h : hasRoom s.cfg s.rxBuf.length = true) :
    bufAppend v s = some { s with rxBuf := s.rxBuf ++ [v] } := if_pos h

theorem bufAppend_full {v : Byte} (h : hasRoom s.cfg s.rxBuf.length = false) : bufAppend v s = none := by
  simp [bufAppend, h]

theorem appendOrOverrun_room {v b : Byte} (h : hasRoom s.cfg s.rxBuf.length = true) :
    appendOrOverrun v b s =
      { s with rxState := .body, rxBuf := s.rxBuf ++ [v], outcomes := s.outcomes ++ [.none] } := by
  simp [appendOrOverrun, bufAppend_room s h, out, goto]

theorem appendOrOverrun_full {v b : Byte} (h : hasRoom s.cfg s.rxBuf.length = false) :
    appendOrOverrun v b s =
      { s with rxState := .hunt, rxCc := 0x00#8, rxBuf := [],
               outcomes := s.outcomes ++ [.decodeError .payloadOverrun b] } := by
  simp [appendOrOverrun, bufAppend_full s h, raiseDecodeError, raiseOutcome_eq]

/-! ### The buffer stays within its capacity (R16): every operation on it keeps `withinMax` -/

theorem withinMax_nil (c : Config) : withinMax c 0 = true := by
  unfold withinMax; split <;> simp

theorem withinMax_append {c : Config} {n : Nat} (h : hasRoom c n = true) : withinMax c (n + 1) = true := by
  unfold hasRoom at h
  unfold withinMax
  split at h
  · rfl
  · exact decide_eq_true (Nat.succ_le_of_lt (of_decide_eq_true h))

theorem bufAppend_withinMax {v : Byte} {t : State} (h : bufAppend v s = some t) :
    withinMax t.cfg t.rxBuf.length = true := by
  unfold bufAppend at h
  split at h
  · next hr => cases h; simpa using withinMax_append hr
  · cases h

/-! ### The TX stream only grows at its end -/

theorem txPutStuffed_eq (b : Byte) : txPutStuffed b s = { s with txStream := s.txStream ++ stuff b } := by
  unfold txPutStuffed stuff; split <;> simp [txPut]

theorem txPutPayload_eq (p : List Byte) :
    txPutPayload p s = { s with txStream := s.txStream ++ stuffAll p } := by
  induction p generalizing s with
  | nil => simp [txPutPayload]
  | cons b rest ih => simp [txPutPayload, ih, txPutStuffed_eq]

end Sys2Proof.Machine
end

