-- ==== Sys2Proof/Laws/PerInstr.lean ====
section
/-! SUPPORT. Family TableRow (spec R54): the row of the opcode table that an instruction's own code selects, by
match, mask and priority, is the instruction's row. One lemma per constructor. -/

namespace Sys2Proof.Laws.TableRow

/-- For a well-formed instruction whose code has a byte that `match` and `mask` apply to. -/
def Statement (i : Instr) : Prop :=
  i.wellFormed = true → ∀ b, (encode i).key = some b → selectRow (encode i).format b = some i.row

/-- The default row of a state: a byte that no earlier row takes. -/
theorem default_rows : ∀ b : Byte,
    ((Instr.huntOther b).wellFormed = true → selectRow .hunt b = some 1) ∧
    ((Instr.ctrlIllegal b).wellFormed = true → selectRow .ctrl b = some 7) ∧
    ((Instr.bodyLit b).wellFormed = true → selectRow .body b = some 10) ∧
    ((Instr.escOther b).wellFormed = true → selectRow .esc b = some 13) ∧
    ((Instr.closedOther b).wellFormed = true → selectRow .closed b = some 17) ∧
    ((Instr.frameIllegal b []).wellFormed = true → selectRow .frame b = some 22) := by decide

theorem wire_key (cc : Byte) (p : List Byte) : (wire cc p)[1]? = some cc := by
  unfold wire stuff
  split
  · next h => simp [h]
  · simp

theorem huntStx : Statement .huntStx := by intro _ b h; cases h; decide
theorem huntOther (b : Byte) : Statement (.huntOther b) := by intro hw _ h; cases h; exact (default_rows b).1 hw
theorem ctrlStx : Statement .ctrlStx := by intro _ b h; cases h; decide
theorem ctrlData : Statement .ctrlData := by intro _ b h; cases h; decide
theorem ctrlStatusinfo : Statement .ctrlStatusinfo := by intro _ b h; cases h; decide
theorem ctrlGsmStatusinfo : Statement .ctrlGsmStatusinfo := by intro _ b h; cases h; decide
theorem ctrlMdbReset : Statement .ctrlMdbReset := by intro _ b h; cases h; decide
theorem ctrlIllegal (b : Byte) : Statement (.ctrlIllegal b) := by
  intro hw _ h; cases h; exact (default_rows b).2.1 hw
theorem bodyStx : Statement .bodyStx := by intro _ b h; cases h; decide
theorem bodyDle : Statement .bodyDle := by intro _ b h; cases h; decide
theorem bodyLit (b : Byte) : Statement (.bodyLit b) := by
  intro hw _ h; cases h; exact (default_rows b).2.2.1 hw
theorem escDle : Statement .escDle := by intro _ b h; cases h; decide
theorem escEtx : Statement .escEtx := by intro _ b h; cases h; decide
theorem escOther (b : Byte) : Statement (.escOther b) := by
  intro hw _ h; cases h; exact (default_rows b).2.2.2.1 hw
theorem closedAck : Statement .closedAck := by intro _ b h; cases h; decide
theorem closedNak : Statement .closedNak := by intro _ b h; cases h; decide
theorem closedStx : Statement .closedStx := by intro _ b h; cases h; decide
theorem closedOther (b : Byte) : Statement (.closedOther b) := by
  intro hw _ h; cases h; exact (default_rows b).2.2.2.2.1 hw

theorem frameData (p : List Byte) : Statement (.frameData p) := by
  intro _ b h; cases (wire_key DATA p).symm.trans h; exact show selectRow .frame DATA = some 18 by decide
theorem frameStatusinfo (p : List Byte) : Statement (.frameStatusinfo p) := by
  intro _ b h; cases (wire_key STATUSINFO p).symm.trans h; exact show selectRow .frame STATUSINFO = some 19 by decide
theorem frameGsmStatusinfo (p : List Byte) : Statement (.frameGsmStatusinfo p) := by
  intro _ b h
  cases (wire_key GSM_STATUSINFO p).symm.trans h
  exact show selectRow .frame GSM_STATUSINFO = some 20 by decide
theorem frameMdbReset (p : List Byte) : Statement (.frameMdbReset p) := by
  intro _ b h; cases (wire_key MDB_RESET p).symm.trans h; exact show selectRow .frame MDB_RESET = some 21 by decide
theorem frameIllegal (cc : Byte) (p : List Byte) : Statement (.frameIllegal cc p) := by
  intro hw b h; cases (wire_key cc p).symm.trans h; exact (default_rows cc).2.2.2.2.2 hw

theorem huntTimeout : Statement .huntTimeout := by intro _ b h; cases h
theorem ctrlTimeout : Statement .ctrlTimeout := by intro _ b h; cases h
theorem bodyTimeout : Statement .bodyTimeout := by intro _ b h; cases h
theorem escTimeout : Statement .escTimeout := by intro _ b h; cases h
theorem closedTimeout : Statement .closedTimeout := by intro _ b h; cases h
theorem encode (cc : Byte) (p : List Byte) : Statement (.encode cc p) := by intro _ b h; cases h
theorem txAck : Statement .txAck := by intro _ b h; cases h
theorem txNak : Statement .txNak := by intro _ b h; cases h
theorem rxReset : Statement .rxReset := by intro _ b h; cases h

end Sys2Proof.Laws.TableRow
end

