-- ==== Sys2Proof/Laws/Receiver.lean ====
section
/-! SUPPORT. What one RX step can do, said once with its conditions (spec R63), and what every run of RX steps
leaves alone. -/

namespace Sys2Proof.Machine

variable (s : State) (e : RxEvent)

/-- Every instruction an event decodes to runs as its effect: `rxStep` and `exec` are one machine. -/
theorem exec_decodeEvent (st : RxState) : exec (decodeEvent st e) s = .next (rxEffect (decodeEvent st e) s) := by
  cases e with
  | timeout => cases st <;> rfl
  | byte b => cases st <;> simp only [decodeEvent, decodeByte] <;> (repeat' split) <;> rfl

/-- The rows of R46, R94 and R95 as a relation: from `s`, on an event, to the state after the step. -/
inductive RxMove : RxEvent → State → Prop where
  | restart (h : s.rxState ≠ .esc) : RxMove (.byte STX) (startFrame s)
  | huntDrop {b : Byte} (h : s.rxState = .hunt) (hb : b ≠ STX) : RxMove (.byte b) (out .none s)
  | accept {cc : Byte} (h : s.rxState = .ctrl) (hc : cc = DATA ∨ cc = STATUSINFO ∨ cc = GSM_STATUSINFO) :
      RxMove (.byte cc) (acceptCode cc s)
  | busReset (h : s.rxState = .ctrl) : RxMove (.byte MDB_RESET) (raiseBusReset s)
  | illegal {b : Byte} (h : s.rxState = .ctrl) (hb : b ≠ STX) (hd : b ≠ DATA) (hs : b ≠ STATUSINFO)
      (hg : b ≠ GSM_STATUSINFO) (hm : b ≠ MDB_RESET) :
      RxMove (.byte b) (raiseDecodeError .unexpectedControlCode b s)
  | bodyDle (h : s.rxState = .body) : RxMove (.byte DLE) (out .none (goto .esc s))
  | bodyLit {b : Byte} (h : s.rxState = .body) (hb : b ≠ STX) (hd : b ≠ DLE) :
      RxMove (.byte b) (appendOrOverrun b b s)
  | escDle (h : s.rxState = .esc) : RxMove (.byte DLE) (appendOrOverrun DLE DLE s)
  | escEtx (h : s.rxState = .esc) : RxMove (.byte ETX) (out (.frame s.rxCc s.rxBuf) (goto .closed s))
  | escReject {b : Byte} (h : s.rxState = .esc) (hd : b ≠ DLE) (he : b ≠ ETX)
      (hp : s.cfg.escPolicy = .reject) : RxMove (.byte b) (raiseDecodeError .unknownEscape b s)
  | escIgnore {b : Byte} (h : s.rxState = .esc) (hd : b ≠ DLE) (he : b ≠ ETX)
      (hp : s.cfg.escPolicy = .ignore) : RxMove (.byte b) (out .none (goto .body s))
  | closeWindow {b : Byte} (h : s.rxState = .closed) (hn : b ≠ NAK) (hb : b ≠ STX) :
      RxMove (.byte b) (closeWindow s)
  | nak (h : s.rxState = .closed) : RxMove (.byte NAK) (Machine.closeWindow (setRejected s))
  | silence (h : s.rxState ≠ .closed) : RxMove .timeout (out .timeout s)
  | silenceClosed (h : s.rxState = .closed) : RxMove .timeout (out .timeout (goto .hunt s))

theorem rxStep_timeout (h : s.rxState ≠ .closed) : rxStep .timeout s = out .timeout s := by
  cases hs : s.rxState <;> simp_all [rxStep, decodeEvent, decodeTimeout, rxEffect, huntTimeout, ctrlTimeout,
    bodyTimeout, escTimeout, timeoutKeep]

theorem rxStep_timeout_closed (h : s.rxState = .closed) :
    rxStep .timeout s = out .timeout (goto .hunt s) := by
  simp [rxStep, h, decodeEvent, decodeTimeout, rxEffect, closedTimeout]

/-- The inversion of an RX step. -/
theorem rxStep_move : RxMove s e (rxStep e s) := by
  cases e with
  | timeout =>
    by_cases h : s.rxState = .closed
    · exact rxStep_timeout_closed s h ▸ .silenceClosed h
    · exact rxStep_timeout s h ▸ .silence h
  | byte b =>
    cases h : s.rxState with
    | hunt =>
      simp only [rxStep, h, decodeEvent, decodeByte]
      split
      · next hb => exact hb ▸ .restart (by simp [h])
      · next hb => exact .huntDrop h hb
    | ctrl =>
      simp only [rxStep, h, decodeEvent, decodeByte]
      split
      · next hb => exact hb ▸ .restart (by simp [h])
      split
      · next hb => exact hb ▸ .accept h (by simp)
      split
      · next hb => exact hb ▸ .accept h (by simp)
      split
      · next hb => exact hb ▸ .accept h (by simp)
      split
      · next hb => exact hb ▸ .busReset h
      · exact .illegal h ‹_› ‹_› ‹_› ‹_› ‹_›
    | body =>
      simp only [rxStep, h, decodeEvent, decodeByte]
      split
      · next hb => exact hb ▸ .restart (by simp [h])
      split
      · next hb => exact hb ▸ .bodyDle h
      · exact .bodyLit h ‹_› ‹_›
    | esc =>
      simp only [rxStep, h, decodeEvent, decodeByte]
      split
      · next hb => exact hb ▸ .escDle h
      split
      · next hb => exact hb ▸ .escEtx h
      · simp only [rxEffect, escOther]
        split
        · exact .escReject h ‹_› ‹_› ‹_›
        · exact .escIgnore h ‹_› ‹_› ‹_›
    | closed =>
      simp only [rxStep, h, decodeEvent, decodeByte]
      split
      · next hb => exact hb ▸ .closeWindow h (by decide) (by decide)
      split
      · next hb => exact hb ▸ .nak h
      split
      · next hb => exact hb ▸ .restart (by simp [h])
      · exact .closeWindow h ‹_› ‹_›

/-! ### What an append does, room or not -/

theorem appendOrOverrun_cfg (v b : Byte) : (appendOrOverrun v b s).cfg = s.cfg := by
  cases h : hasRoom s.cfg s.rxBuf.length
  · rw [appendOrOverrun_full s h]
  · rw [appendOrOverrun_room s h]

theorem appendOrOverrun_inputs (v b : Byte) : (appendOrOverrun v b s).inputs = s.inputs := by
  cases h : hasRoom s.cfg s.rxBuf.length
  · rw [appendOrOverrun_full s h]
  · rw [appendOrOverrun_room s h]

theorem appendOrOverrun_txStream (v b : Byte) : (appendOrOverrun v b s).txStream = s.txStream := by
  cases h : hasRoom s.cfg s.rxBuf.length
  · rw [appendOrOverrun_full s h]
  · rw [appendOrOverrun_room s h]

/-! ### The frame of an RX step and of a run -/

variable {s e} in
theorem RxMove.cfg {t : State} (h : RxMove s e t) : t.cfg = s.cfg := by
  cases h <;> first | rfl | exact appendOrOverrun_cfg ..

variable {s e} in
theorem RxMove.inputs {t : State} (h : RxMove s e t) : t.inputs = s.inputs := by
  cases h <;> first | rfl | exact appendOrOverrun_inputs ..

variable {s e} in
theorem RxMove.txStream {t : State} (h : RxMove s e t) : t.txStream = s.txStream := by
  cases h <;> first | rfl | exact appendOrOverrun_txStream ..

variable {s e} in
/-- R8: exactly one output per RX step. -/
theorem RxMove.outcomes {t : State} (h : RxMove s e t) : ∃ o, t.outcomes = s.outcomes ++ [o] := by
  cases h with
  | bodyLit h hb hd =>
    cases hr : hasRoom s.cfg s.rxBuf.length
    · exact ⟨_, congrArg State.outcomes (appendOrOverrun_full s hr)⟩
    · exact ⟨_, congrArg State.outcomes (appendOrOverrun_room s hr)⟩
  | escDle h =>
    cases hr : hasRoom s.cfg s.rxBuf.length
    · exact ⟨_, congrArg State.outcomes (appendOrOverrun_full s hr)⟩
    · exact ⟨_, congrArg State.outcomes (appendOrOverrun_room s hr)⟩
  | _ => exact ⟨_, rfl⟩

theorem rxStep_cfg : (rxStep e s).cfg = s.cfg := (rxStep_move s e).cfg

theorem rxStep_inputs : (rxStep e s).inputs = s.inputs := (rxStep_move s e).inputs

theorem rxStep_txStream : (rxStep e s).txStream = s.txStream := (rxStep_move s e).txStream

theorem rxStep_outcomes : (rxStep e s).outcomes = s.outcomes ++ [rxOutput e s] := by
  obtain ⟨o, h⟩ := (rxStep_move s e).outcomes
  simp [rxOutput, h]

theorem rxRun_append (es fs : List RxEvent) : rxRun (es ++ fs) s = rxRun fs (rxRun es s) := by
  induction es generalizing s with
  | nil => rfl
  | cons e es ih => exact ih (rxStep e s)

theorem rxRun_cfg (es : List RxEvent) : (rxRun es s).cfg = s.cfg := by
  induction es generalizing s with
  | nil => rfl
  | cons e es ih => exact (ih _).trans (rxStep_cfg s e)

theorem rxRun_inputs (es : List RxEvent) : (rxRun es s).inputs = s.inputs := by
  induction es generalizing s with
  | nil => rfl
  | cons e es ih => exact (ih _).trans (rxStep_inputs s e)

theorem rxRun_txStream (es : List RxEvent) : (rxRun es s).txStream = s.txStream := by
  induction es generalizing s with
  | nil => rfl
  | cons e es ih => exact (ih _).trans (rxStep_txStream s e)

/-! ### An RX step does not look at the inputs or the TX stream -/

theorem rxStep_setInputs (l : List Input) : rxStep e (setInputs l s) = setInputs l (rxStep e s) := by
  cases e with
  | timeout => cases h : s.rxState <;> simp only [rxStep, setInputs_rxState, h, decodeEvent, decodeTimeout] <;> rfl
  | byte b =>
    cases h : s.rxState <;>
      simp only [rxStep, setInputs_rxState, h, decodeEvent, decodeByte] <;> (repeat' split) <;>
      first
      | rfl
      | (simp only [rxEffect, Machine.bodyLit, Machine.escDle]
         cases hr : hasRoom s.cfg s.rxBuf.length
         · rw [appendOrOverrun_full s hr, appendOrOverrun_full (setInputs l s) hr]; rfl
         · rw [appendOrOverrun_room s hr, appendOrOverrun_room (setInputs l s) hr]; rfl)
      | (simp only [rxEffect, escOther, setInputs_cfg]; split <;> rfl)

theorem rxStep_txPut (v : Byte) : rxStep e (txPut v s) = txPut v (rxStep e s) := by
  cases e with
  | timeout => cases h : s.rxState <;> simp only [rxStep, txPut_rxState, h, decodeEvent, decodeTimeout] <;> rfl
  | byte b =>
    cases h : s.rxState <;>
      simp only [rxStep, txPut_rxState, h, decodeEvent, decodeByte] <;> (repeat' split) <;>
      first
      | rfl
      | (simp only [rxEffect, Machine.bodyLit, Machine.escDle]
         cases hr : hasRoom s.cfg s.rxBuf.length
         · rw [appendOrOverrun_full s hr, appendOrOverrun_full (txPut v s) hr]; rfl
         · rw [appendOrOverrun_room s hr, appendOrOverrun_room (txPut v s) hr]; rfl)
      | (simp only [rxEffect, escOther, txPut_cfg]; split <;> rfl)

/-- R117: no rule reads the outcomes: with another record the step is the same, and adds the same output. -/
theorem rxStep_withOutcomes_concat :
    ∃ o, ∀ l, rxStep e { s with outcomes := l } = { rxStep e s with outcomes := l ++ [o] } := by
  obtain ⟨st, cc, buf, rej, cfg, ins, tx, outs⟩ := s
  cases e with
  | timeout => cases st <;> exact ⟨.timeout, fun l => rfl⟩
  | byte b =>
    cases st <;> simp only [rxStep, decodeEvent, decodeByte] <;> (repeat' split) <;>
      first
      | exact ⟨_, fun l => rfl⟩
      | exact ⟨.frame cc buf, fun l => rfl⟩
      | (simp only [rxEffect, Machine.bodyLit, Machine.escDle]
         cases hr : hasRoom cfg buf.length
         · exact ⟨_, fun l => by rw [appendOrOverrun_full _ hr, appendOrOverrun_full _ hr]⟩
         · exact ⟨_, fun l => by rw [appendOrOverrun_room _ hr, appendOrOverrun_room _ hr]⟩)
      | (simp only [rxEffect, escOther]; split <;> exact ⟨_, fun l => rfl⟩)

theorem rxStep_withOutcomes (l : List RxOut) :
    rxStep e { s with outcomes := l } = { rxStep e s with outcomes := l ++ [rxOutput e s] } := by
  obtain ⟨o, h⟩ := rxStep_withOutcomes_concat s e
  have ho : (rxStep e s).outcomes = s.outcomes ++ [o] := congrArg State.outcomes (h s.outcomes)
  rw [h l, rxOutput, ho]
  simp

/-- R17: no rule reads `rx_rejected`. -/
theorem rxStep_withRejected (r : Bool) :
    ∃ q, rxStep e { s with rxRejected := r } = { rxStep e s with rxRejected := q } := by
  obtain ⟨st, cc, buf, rej, cfg, ins, tx, outs⟩ := s
  cases e with
  | timeout => cases st <;> exact ⟨_, rfl⟩
  | byte b =>
    cases st <;> simp only [rxStep, decodeEvent, decodeByte] <;> (repeat' split) <;>
      first
      | exact ⟨_, rfl⟩
      | (simp only [rxEffect, Machine.bodyLit, Machine.escDle]
         cases hr : hasRoom cfg buf.length
         · exact ⟨_, by rw [appendOrOverrun_full _ hr, appendOrOverrun_full _ hr]⟩
         · exact ⟨_, by rw [appendOrOverrun_room _ hr, appendOrOverrun_room _ hr]⟩)
      | (simp only [rxEffect, escOther]; split <;> exact ⟨_, rfl⟩)

theorem rxRun_setInputs (es : List RxEvent) (l : List Input) :
    rxRun es (setInputs l s) = setInputs l (rxRun es s) := by
  induction es generalizing s with
  | nil => rfl
  | cons e es ih => simp only [rxRun, rxStep_setInputs, ih]

end Sys2Proof.Machine
end

