-- ==== Sys2Proof/Laws/Step.lean ====
section
/-! SUPPORT. What one step does for each kind of entry at the front of the inputs (spec R12, R33), and the two
equations of a run of the machine. -/

namespace Sys2Proof.Machine

variable {s : State} {rest : List Input}

theorem step_idle (h : s.inputs = []) : step s = .next s := by
  simp [step, fetch, h]

theorem step_event {e : RxEvent} (h : s.inputs = .event e :: rest) :
    step s = .next (rxStep e (setInputs rest s)) := by
  simp only [step, fetch, h, decodeInput]
  exact exec_decodeEvent (setInputs rest s) e s.rxState

/-- Every frame row takes the whole wire frame. -/
theorem exec_decodeFrame (cc : Byte) (p : List Byte) (s : State) :
    exec (decodeFrame cc p) s = .next (takeWire cc p s) := by
  unfold decodeFrame
  split
  · next h => rw [h]; rfl
  split
  · next h => rw [h]; rfl
  split
  · next h => rw [h]; rfl
  split
  · next h => rw [h]; rfl
  · rfl

theorem step_wire {cc : Byte} {p : List Byte} (h : s.inputs = .wire cc p :: rest) :
    step s = .next (takeWire cc p (setInputs rest s)) := by
  simp only [step, fetch, h, decodeInput]
  exact exec_decodeFrame cc p (setInputs rest s)

/-- R55: the commands append their bytes and write nothing else. -/
theorem execEncode_eq (cc : Byte) (p : List Byte) (s : State) :
    execEncode cc p s = .next { s with txStream := s.txStream ++ wire cc p } := by
  simp [execEncode, txPutPayload_eq, txPutStuffed_eq, txPut, wire]

theorem step_encode {cc : Byte} {p : List Byte} (h : s.inputs = .tx (.encode cc p) :: rest) :
    step s = .next { s with inputs := rest, txStream := s.txStream ++ wire cc p } := by
  simp only [step, fetch, h, decodeInput, decodeTx, exec, execEncode_eq]
  rfl

theorem step_ack (h : s.inputs = .tx .ack :: rest) :
    step s = .next { s with inputs := rest, txStream := s.txStream ++ [ACK] } := by
  simp only [step, fetch, h, decodeInput, decodeTx]
  rfl

theorem step_nak (h : s.inputs = .tx .nak :: rest) :
    step s = .next { s with inputs := rest, txStream := s.txStream ++ [NAK] } := by
  simp only [step, fetch, h, decodeInput, decodeTx]
  rfl

theorem step_rxReset (h : s.inputs = .rxReset :: rest) : step s = .next (resetRegs (setInputs rest s)) := by
  simp only [step, fetch, h, decodeInput]
  rfl

theorem step_hardReset (h : s.inputs = .hardReset :: rest) : step s = .next (resetRegs (setInputs rest s)) := by
  simp only [step, fetch, h, decodeInput]
  rfl

/-- One more step of a run, when it goes on. -/
theorem run_succ {n : Nat} {t : State} (h : step s = .next t) :
    Host.Core.run Sys2Proof.core (n + 1) s = Host.Core.run Sys2Proof.core n t := by
  simp only [Host.Core.run]
  rw [show Sys2Proof.core.step s = .next t from h]

/-- A run over events is a run of RX steps. -/
theorem run_events (es : List RxEvent) (s : State) (h : s.inputs = es.map .event ++ rest) :
    Host.Core.run Sys2Proof.core es.length s = .next (rxRun es (setInputs rest s)) := by
  induction es generalizing s with
  | nil =>
    cases s
    simp only [List.map_nil, List.nil_append] at h
    subst h; rfl
  | cons e es ih =>
    have h1 : s.inputs = .event e :: (es.map .event ++ rest) := by simpa using h
    rw [List.length_cons, run_succ (step_event h1), ih _ (by rw [rxStep_inputs]; rfl),
      ← rxStep_setInputs]
    rfl

end Sys2Proof.Machine
end

