-- ==== Sys2Proof/Tests/Slice0.lean ====
section
/-! SUPPORT. Small tests: the well-formedness checks, words written out from the spec's encodings, one or two steps
per instruction with the results spec/95_test_vectors.md gives (the vector's name stands in the test's name or
above it), and a witness for the hypotheses of every obligation that has any. -/

open Sys2Proof Sys2Proof.Machine

namespace Sys2Proof.Tests

/-! ### Helpers: a small state, and what a test looks at -/

/-- A receiver in a given condition, otherwise as after reset. -/
def rx (st : RxState) (cc : Byte) (buf : List Byte) (rejected : Bool) : State :=
  { State.reset with rxState := st, rxCc := cc, rxBuf := buf, rxRejected := rejected }

/-- The same with these inputs presented. -/
def given (inputs : List Input) (s : State) : State := { s with inputs := inputs }

def withPolicy (p : EscPolicy) (s : State) : State := { s with cfg := { s.cfg with escPolicy := p } }

def withMax (n : Nat) (s : State) : State := { s with cfg := { s.cfg with payloadMax := some n } }

/-- One byte taken: the registers and the outcomes after the step. -/
def afterByte (b : Byte) (s : State) : Option (RxRegs × List RxOut) :=
  match step (given [.event (.byte b)] s) with
  | .next t => some (hostRead t, t.outcomes)
  | .fault _ | .refused _ => none

/-- One timeout taken. -/
def afterTimeout (s : State) : Option (RxRegs × List RxOut) :=
  match step (given [.event .timeout] s) with
  | .next t => some (hostRead t, t.outcomes)
  | .fault _ | .refused _ => none

/-- One instruction run: the registers and the outcomes. -/
def afterInstr (i : Instr) (s : State) : Option (RxRegs × List RxOut) :=
  match exec i s with
  | .next t => some (hostRead t, t.outcomes)
  | .fault _ | .refused _ => none

/-- One entry taken: the bytes on the TX stream. -/
def emitted (inp : Input) : Option (List Byte) :=
  match step (given [inp] State.reset) with
  | .next t => some t.txStream
  | .fault _ | .refused _ => none

/-! ### WellFormed refuses an ill-formed term of each kind (R46, R48) -/

theorem test_illformed_huntOther : (Instr.huntOther 0x02#8).wellFormed = false := by decide

theorem test_illformed_ctrlIllegal :
    ∀ b ∈ [0x02#8, 0x00#8, 0x11#8, 0x17#8, 0x14#8], (Instr.ctrlIllegal b).wellFormed = false := by decide

theorem test_illformed_bodyLit : ∀ b ∈ [0x02#8, 0x10#8], (Instr.bodyLit b).wellFormed = false := by decide

theorem test_illformed_escOther : ∀ b ∈ [0x10#8, 0x03#8], (Instr.escOther b).wellFormed = false := by decide

theorem test_illformed_closedOther :
    ∀ b ∈ [0x06#8, 0x15#8, 0x02#8], (Instr.closedOther b).wellFormed = false := by decide

theorem test_illformed_frameIllegal :
    ∀ cc ∈ [0x00#8, 0x11#8, 0x17#8, 0x14#8], (Instr.frameIllegal cc [0x41#8]).wellFormed = false := by decide

/-- R46: in HUNT `0x10` is an ordinary byte, and R48 lets a FRAME row carry `0x02`. -/
theorem test_wellformed_neighbours :
    (Instr.huntOther 0x10#8).wellFormed = true ∧ (Instr.ctrlIllegal 0x10#8).wellFormed = true ∧
    (Instr.bodyLit 0x03#8).wellFormed = true ∧ (Instr.escOther 0x02#8).wellFormed = true ∧
    (Instr.closedOther 0x10#8).wellFormed = true ∧ (Instr.frameIllegal 0x02#8 []).wellFormed = true := by decide

/-! ### The constants and the table (R6, R54) -/

theorem test_constants :
    [STX, ETX, DLE, ACK, NAK] = [0x02#8, 0x03#8, 0x10#8, 0x06#8, 0x15#8] ∧
    [DATA, STATUSINFO, GSM_STATUSINFO, MDB_RESET] = [0x00#8, 0x11#8, 0x17#8, 0x14#8] := by decide

/-- R54: `priority` grows down a format's rows, so the first match of the list is the first in priority. -/
theorem test_rows_in_priority_order :
    ∀ f ∈ [Format.hunt, .ctrl, .body, .esc, .closed, .frame],
      ((rowsOf f).map (·.priority)).Pairwise (· < ·) := by decide

/-! ### Words written out bit by bit, each decoded to its instruction (R46, R48, R40) -/

theorem test_decode_hunt :
    decodeCode (.byte .hunt 0b00000010#8) = .ok .huntStx ∧
    decodeCode (.byte .hunt 0b00000110#8) = .ok (.huntOther 0x06#8) := ⟨rfl, rfl⟩

theorem test_decode_ctrl :
    decodeCode (.byte .ctrl 0b00000010#8) = .ok .ctrlStx ∧
    decodeCode (.byte .ctrl 0b00000000#8) = .ok .ctrlData ∧
    decodeCode (.byte .ctrl 0b00010001#8) = .ok .ctrlStatusinfo ∧
    decodeCode (.byte .ctrl 0b00010111#8) = .ok .ctrlGsmStatusinfo ∧
    decodeCode (.byte .ctrl 0b00010100#8) = .ok .ctrlMdbReset ∧
    decodeCode (.byte .ctrl 0b00010010#8) = .ok (.ctrlIllegal 0x12#8) := ⟨rfl, rfl, rfl, rfl, rfl, rfl⟩

theorem test_decode_body :
    decodeCode (.byte .body 0b00000010#8) = .ok .bodyStx ∧
    decodeCode (.byte .body 0b00010000#8) = .ok .bodyDle ∧
    decodeCode (.byte .body 0b00010101#8) = .ok (.bodyLit 0x15#8) := ⟨rfl, rfl, rfl⟩

theorem test_decode_esc :
    decodeCode (.byte .esc 0b00010000#8) = .ok .escDle ∧
    decodeCode (.byte .esc 0b00000011#8) = .ok .escEtx ∧
    decodeCode (.byte .esc 0b01000010#8) = .ok (.escOther 0x42#8) := ⟨rfl, rfl, rfl⟩

theorem test_decode_closed :
    decodeCode (.byte .closed 0b00000110#8) = .ok .closedAck ∧
    decodeCode (.byte .closed 0b00010101#8) = .ok .closedNak ∧
    decodeCode (.byte .closed 0b00000010#8) = .ok .closedStx ∧
    decodeCode (.byte .closed 0b00000011#8) = .ok (.closedOther 0x03#8) := ⟨rfl, rfl, rfl, rfl⟩

theorem test_decode_timeout :
    [RxState.hunt, .ctrl, .body, .esc, .closed].map (fun st => decodeCode (.timeout st)) =
      [.ok .huntTimeout, .ok .ctrlTimeout, .ok .bodyTimeout, .ok .escTimeout, .ok .closedTimeout] := rfl

/-- V-TX-1, V-TX-17, V-TX-10, V-TX-12, V-TX-13: the bytes of `WIRE(cc; p)`. -/
theorem test_decode_frame :
    decodeCode (.frame [0x02#8, 0x00#8, 0x10#8, 0x03#8]) = .ok (.frameData []) ∧
    decodeCode (.frame [0x02#8, 0x11#8, 0x01#8, 0x10#8, 0x03#8]) = .ok (.frameStatusinfo [0x01#8]) ∧
    decodeCode (.frame [0x02#8, 0x17#8, 0x10#8, 0x10#8, 0x03#8, 0x10#8, 0x03#8]) =
      .ok (.frameGsmStatusinfo [0x10#8, 0x03#8]) ∧
    decodeCode (.frame [0x02#8, 0x14#8, 0x10#8, 0x03#8]) = .ok (.frameMdbReset []) ∧
    decodeCode (.frame [0x02#8, 0x02#8, 0x02#8, 0x10#8, 0x03#8]) = .ok (.frameIllegal 0x02#8 [0x02#8]) :=
  ⟨rfl, rfl, rfl, rfl, rfl⟩

/-- V-TX-5, V-TX-15, R101. -/
theorem test_decode_commands :
    decodeCode (.txCmd [0x02#8, 0x10#8, 0x10#8, 0x01#8, 0x10#8, 0x03#8]) = .ok (.encode 0x10#8 [0x01#8]) ∧
    decodeCode (.txCmd [0b00000110#8]) = .ok .txAck ∧
    decodeCode (.txCmd [0b00010101#8]) = .ok .txNak ∧
    decodeCode .rxReset = .ok .rxReset := ⟨rfl, rfl, rfl, rfl⟩

/-- The decoder rejects by name (R40, R41, R45, R49, R14). -/
theorem test_decode_rejects :
    decodeCode (.frame [0x03#8, 0x00#8, 0x10#8, 0x03#8]) = .error .noStartDelimiter ∧
    decodeCode (.frame [0x02#8, 0x00#8, 0x41#8]) = .error .truncated ∧
    decodeCode (.frame [0x02#8, 0x00#8, 0x10#8, 0x42#8, 0x10#8, 0x03#8]) = .error (.badEscape 0x42#8) ∧
    decodeCode (.frame [0x02#8, 0x00#8, 0x10#8, 0x03#8, 0x06#8]) = .error .trailing ∧
    decodeCode (.frame [0x02#8, 0x10#8, 0x03#8]) = .error .emptyBody ∧
    RxState.ofBits 0b101#3 = .error .unreachableState := ⟨rfl, rfl, rfl, rfl, rfl, rfl⟩

/-! ### Table words (log entry 7) -/

theorem test_table_words :
    decodeTableWord 8 0x02 = some .huntStx ∧ decodeTableWord 8 0x11 = some .ctrlStatusinfo ∧
    decodeTableWord 8 0x10 = some .bodyDle ∧ decodeTableWord 8 0x03 = some .escEtx ∧
    decodeTableWord 8 0x15 = some .closedNak ∧ decodeTableWord 8 0x41 = some (.huntOther 0x41#8) ∧
    decodeTableWord 32 0x03100002 = some (.encode 0x00#8 []) := by decide

/-- The very next step after `withFetchWord` runs the word, with whatever was presented before left behind it. -/
theorem test_fetch_word :
    afterInstr .escEtx (rx .esc 0x00#8 [] false) =
      (match step (State.reset.withFetchWord 8 0x03) with
        | .next t => some (hostRead t, t.outcomes)
        | .fault _ | .refused _ => none) ∧
    (State.reset.withFetchWord 8 0x03).inputs = [.event (.byte 0x03#8)] := by decide

theorem test_fetch_word_encode :
    (match step (State.reset.withFetchWord 32 0x03100002) with
      | .next t => some t.txStream
      | .fault _ | .refused _ => none) = some [0x02#8, 0x00#8, 0x10#8, 0x03#8] := by decide

/-! ### State HUNT -/

theorem test_V_RX_1 : afterByte 0x02#8 (rx .hunt 0x00#8 [] false) =
    some (⟨.ctrl, 0x00#8, [], false⟩, [.none]) := by decide

theorem test_V_RX_4 : afterByte 0x02#8 (rx .hunt 0x11#8 [0x01#8] true) =
    some (⟨.ctrl, 0x00#8, [], false⟩, [.none]) := by decide

theorem test_V_RX_3 : afterByte 0x41#8 (rx .hunt 0x11#8 [0x01#8] true) =
    some (⟨.hunt, 0x11#8, [0x01#8], true⟩, [.none]) := by decide

/-! ### State CTRL -/

theorem test_V_RX_6 : afterByte 0x00#8 (rx .ctrl 0x00#8 [] false) =
    some (⟨.body, 0x00#8, [], false⟩, [.none]) := by decide

theorem test_V_RX_7 : afterByte 0x11#8 (rx .ctrl 0x00#8 [] false) =
    some (⟨.body, 0x11#8, [], false⟩, [.none]) := by decide

theorem test_V_RX_8 : afterByte 0x17#8 (rx .ctrl 0x00#8 [] false) =
    some (⟨.body, 0x17#8, [], false⟩, [.none]) := by decide

theorem test_V_RX_9 : afterByte 0x14#8 (rx .ctrl 0x00#8 [] false) =
    some (⟨.hunt, 0x00#8, [], false⟩, [.busReset]) := by decide

theorem test_V_RX_10 : afterByte 0x02#8 (rx .ctrl 0x00#8 [] false) =
    some (⟨.ctrl, 0x00#8, [], false⟩, [.none]) := by decide

theorem test_V_RX_11 : afterByte 0x10#8 (rx .ctrl 0x00#8 [] false) =
    some (⟨.hunt, 0x00#8, [], false⟩, [.decodeError .unexpectedControlCode 0x10#8]) := by decide

theorem test_V_RX_18 : afterByte 0x16#8 (rx .ctrl 0x00#8 [] false) =
    some (⟨.hunt, 0x00#8, [], false⟩, [.decodeError .unexpectedControlCode 0x16#8]) := by decide

/-! ### State BODY -/

theorem test_V_RX_22 : afterByte 0x02#8 (rx .body 0x00#8 [0x41#8] false) =
    some (⟨.ctrl, 0x00#8, [], false⟩, [.none]) := by decide

theorem test_V_RX_23 : afterByte 0x10#8 (rx .body 0x00#8 [0x41#8] false) =
    some (⟨.esc, 0x00#8, [0x41#8], false⟩, [.none]) := by decide

theorem test_V_RX_24 : afterByte 0x03#8 (rx .body 0x00#8 [0x41#8] false) =
    some (⟨.body, 0x00#8, [0x41#8, 0x03#8], false⟩, [.none]) := by decide

/-- V-RX-49, its fifth event. -/
theorem test_V_RX_49 : afterByte 0xA3#8 (withMax 2 (rx .body 0x00#8 [0xA1#8, 0xA2#8] false)) =
    some (⟨.hunt, 0x00#8, [], false⟩, [.decodeError .payloadOverrun 0xA3#8]) := by decide

/-! ### State ESC -/

theorem test_V_RX_31 : afterByte 0x10#8 (rx .esc 0x00#8 [0x41#8] false) =
    some (⟨.body, 0x00#8, [0x41#8, 0x10#8], false⟩, [.none]) := by decide

/-- V-RX-52, its last event. -/
theorem test_V_RX_52 : afterByte 0x10#8 (withMax 2 (rx .esc 0x00#8 [0xA1#8, 0xA2#8] false)) =
    some (⟨.hunt, 0x00#8, [], false⟩, [.decodeError .payloadOverrun 0x10#8]) := by decide

theorem test_V_RX_32 : afterByte 0x03#8 (rx .esc 0x00#8 [0x41#8] false) =
    some (⟨.closed, 0x00#8, [0x41#8], false⟩, [.frame 0x00#8 [0x41#8]]) := by decide

/-- V-RX-50, its last event: a full buffer still closes. -/
theorem test_V_RX_50 : afterByte 0x03#8 (withMax 2 (rx .esc 0x00#8 [0xA1#8, 0xA2#8] false)) =
    some (⟨.closed, 0x00#8, [0xA1#8, 0xA2#8], false⟩, [.frame 0x00#8 [0xA1#8, 0xA2#8]]) := by decide

theorem test_V_RX_33 : afterByte 0x02#8 (rx .esc 0x00#8 [0x41#8] false) =
    some (⟨.hunt, 0x00#8, [], false⟩, [.decodeError .unknownEscape 0x02#8]) := by decide

theorem test_V_RX_36 : afterByte 0x42#8 (withPolicy .ignore (rx .esc 0x00#8 [0x41#8] false)) =
    some (⟨.body, 0x00#8, [0x41#8], false⟩, [.none]) := by decide

/-! ### State CLOSED -/

theorem test_V_RX_42 : afterByte 0x06#8 (rx .closed 0x11#8 [0x01#8] false) =
    some (⟨.hunt, 0x11#8, [0x01#8], false⟩, [.none]) := by decide

theorem test_V_RX_43 : afterByte 0x15#8 (rx .closed 0x11#8 [0x01#8] false) =
    some (⟨.hunt, 0x11#8, [0x01#8], true⟩, [.none]) := by decide

theorem test_V_RX_44 : afterByte 0x02#8 (rx .closed 0x11#8 [0x01#8] false) =
    some (⟨.ctrl, 0x00#8, [], false⟩, [.none]) := by decide

theorem test_V_RX_46 : afterByte 0x10#8 (rx .closed 0x11#8 [0x01#8] false) =
    some (⟨.hunt, 0x11#8, [0x01#8], false⟩, [.none]) := by decide

/-! ### The Timeout event -/

theorem test_V_RX_5 : afterTimeout (rx .hunt 0x00#8 [] false) =
    some (⟨.hunt, 0x00#8, [], false⟩, [.timeout]) := by decide

theorem test_V_RX_21 : afterTimeout (rx .ctrl 0x00#8 [] false) =
    some (⟨.ctrl, 0x00#8, [], false⟩, [.timeout]) := by decide

theorem test_V_RX_30 : afterTimeout (rx .body 0x00#8 [0x41#8] false) =
    some (⟨.body, 0x00#8, [0x41#8], false⟩, [.timeout]) := by decide

theorem test_V_RX_41 : afterTimeout (rx .esc 0x00#8 [0x41#8] false) =
    some (⟨.esc, 0x00#8, [0x41#8], false⟩, [.timeout]) := by decide

theorem test_V_RX_48 : afterTimeout (rx .closed 0x11#8 [0x01#8] false) =
    some (⟨.hunt, 0x11#8, [0x01#8], false⟩, [.timeout]) := by decide

/-! ### Frame-level rows: whole wire frames (section 2 of the vectors, column "decodes to") -/

theorem test_V_RT_1 : afterInstr (.frameData [0x10#8, 0x41#8]) (rx .ctrl 0x00#8 [] false) =
    some (⟨.closed, 0x00#8, [0x10#8, 0x41#8], false⟩,
      [.none, .none, .none, .none, .none, .none, .frame 0x00#8 [0x10#8, 0x41#8]]) := by decide

theorem test_V_RT_4 : afterInstr (.frameData [0x10#8, 0x41#8]) (rx .esc 0x00#8 [0x33#8] false) =
    some (⟨.hunt, 0x00#8, [], false⟩,
      [.decodeError .unknownEscape 0x02#8, .none, .none, .none, .none, .none, .none]) := by decide

theorem test_V_TX_17 : afterInstr (.frameStatusinfo [0x01#8]) State.reset =
    some (⟨.closed, 0x11#8, [0x01#8], false⟩, [.none, .none, .none, .none, .frame 0x11#8 [0x01#8]]) := by decide

theorem test_V_TX_10 : afterInstr (.frameGsmStatusinfo [0x10#8, 0x03#8]) State.reset =
    some (⟨.closed, 0x17#8, [0x10#8, 0x03#8], false⟩,
      [.none, .none, .none, .none, .none, .none, .frame 0x17#8 [0x10#8, 0x03#8]]) := by decide

theorem test_V_TX_12 : afterInstr (.frameMdbReset []) State.reset =
    some (⟨.hunt, 0x00#8, [], false⟩, [.none, .busReset, .none, .none]) := by decide

theorem test_V_RX_57 : afterInstr (.frameIllegal 0x10#8 [0x01#8]) State.reset =
    some (⟨.hunt, 0x00#8, [], false⟩,
      [.none, .decodeError .unexpectedControlCode 0x10#8, .none, .none, .none, .none]) := by decide

theorem test_V_TX_13 : afterInstr (.frameIllegal 0x02#8 [0x02#8]) State.reset =
    some (⟨.hunt, 0x00#8, [], false⟩,
      [.none, .none, .none, .decodeError .unexpectedControlCode 0x10#8, .none]) := by decide

/-! ### Transmit and host commands -/

theorem test_V_TX_6 : emitted (.tx (.encode 0x10#8 [0x10#8])) =
    some [0x02#8, 0x10#8, 0x10#8, 0x10#8, 0x10#8, 0x10#8, 0x03#8] := by decide

theorem test_V_TX_9 : emitted (.tx (.encode 0x00#8 [0x15#8, 0x06#8, 0x03#8])) =
    some [0x02#8, 0x00#8, 0x15#8, 0x06#8, 0x03#8, 0x10#8, 0x03#8] := by decide

theorem test_V_TX_15 : emitted (.tx .ack) = some [0x06#8] ∧ emitted (.tx .nak) = some [0x15#8] := by decide

/-- Program P7, command 5. -/
theorem test_rxReset : afterInstr .rxReset (rx .esc 0x00#8 [0x41#8] true) =
    some (⟨.hunt, 0x00#8, [], false⟩, []) := by decide

/-! ### Witnesses: states and operands that meet the hypotheses of each obligation -/

/-- An idle block; an instruction; the hard reset. -/
theorem witness_StepRunsDecodedInstruction :
    State.reset.inputs = [] ∧
    decodeInput .hunt (.event (.byte 0x02#8)) = some .huntStx ∧ decodeInput .hunt .hardReset = none ∧
    (given [.hardReset] State.reset).inputs = .hardReset :: [] := by decide

theorem witness_InputCodeDecodesToItsInstruction :
    inputCode .esc (.event (.byte 0x03#8)) = some (.byte .esc 0x03#8) ∧
    inputCode .hunt (.wire 0x10#8 []) = some (.frame [0x02#8, 0x10#8, 0x10#8, 0x10#8, 0x03#8]) := by decide

theorem witness_DecodeInvertsEncode :
    (Instr.escOther 0x02#8).wellFormed = true ∧ (Instr.frameIllegal 0x10#8 [0x10#8]).wellFormed = true := by decide

theorem witness_EncodeInvertsDecode :
    decodeCode (.frame [0x02#8, 0x10#8, 0x10#8, 0x10#8, 0x03#8]) = .ok (.frameIllegal 0x10#8 []) := rfl

/-- The neighbours of the two constants that bound the CTRL bytes. -/
theorem witness_ControlCodeClassifier : (0x01#8 : Byte) ≠ 0x02#8 ∧ (0x03#8 : Byte) ≠ 0x02#8 := by decide

theorem witness_RxResetEffect : (given [.rxReset] (rx .esc 0x11#8 [0x01#8] true)).inputs = .rxReset :: [] := by decide

theorem witness_HardResetEffect : (given [.hardReset] (rx .esc 0x11#8 [] true)).inputs = .hardReset :: [] := by decide

theorem witness_StxStartsFrame :
    ∀ st ∈ [RxState.hunt, .ctrl, .body, .closed],
      (given [.event (.byte 0x02#8)] (rx st 0x00#8 [] false)).atByte st 0x02#8 [] := by decide

theorem witness_HuntDropsOtherByte :
    (given [.event (.byte 0x03#8)] State.reset).atByte .hunt 0x03#8 [] ∧ (0x03#8 : Byte) ≠ 0x02#8 := by decide

theorem witness_AcceptedCodeOpensBody :
    ∀ cc ∈ [0x00#8, 0x11#8, 0x17#8],
      (given [.event (.byte cc)] (rx .ctrl 0x00#8 [] false)).atByte .ctrl cc [] := by decide

theorem witness_MdbResetRaisesBusReset :
    (given [.event (.byte 0x14#8)] (rx .ctrl 0x00#8 [] false)).atByte .ctrl 0x14#8 [] := by decide

/-- The values next to the accepted codes. -/
theorem witness_IllegalCodeRaisesError :
    ∀ b ∈ [0x01#8, 0x10#8, 0x12#8, 0x13#8, 0x16#8, 0x18#8, 0xFF#8],
      (given [.event (.byte b)] (rx .ctrl 0x00#8 [] false)).atByte .ctrl b [] ∧
      b ∉ [0x02#8, 0x00#8, 0x11#8, 0x14#8, 0x17#8] := by decide

theorem witness_BodyDleOpensEscape :
    (given [.event (.byte 0x10#8)] (rx .body 0x00#8 [] false)).atByte .body 0x10#8 [] := by decide

/-- With `PAYLOAD_MAX = 1` an empty buffer has room and one of one byte has none. -/
theorem witness_BodyLiteralIsAppended :
    (rx .body 0x00#8 [] false).rxState = .body ∧
    hasRoom (withMax 1 (rx .body 0x00#8 [] false)).cfg 0 = true ∧
    hasRoom (withMax 1 (rx .body 0x00#8 [0x41#8] false)).cfg 1 = false ∧
    (given [.event (.byte 0x03#8)] (rx .body 0x00#8 [] false)).atEvent (.byte 0x03#8) [] ∧
    (0x03#8 : Byte) ≠ 0x02#8 ∧ (0x03#8 : Byte) ≠ 0x10#8 := by decide

theorem witness_EscapedDleIsOneLiteral :
    hasRoom (withMax 1 (rx .esc 0x00#8 [] false)).cfg 0 = true ∧
    hasRoom (withMax 1 (rx .esc 0x00#8 [0x41#8] false)).cfg 1 = false ∧
    (given [.event (.byte 0x10#8)] (rx .esc 0x00#8 [] false)).atByte .esc 0x10#8 [] := by decide

theorem witness_EscapedEtxDeliversFrame :
    (given [.event (.byte 0x03#8)] (rx .esc 0x00#8 [] false)).atByte .esc 0x03#8 [] := by decide

theorem witness_UnknownEscapeFollowsPolicy :
    State.reset.cfg.escPolicy = .reject ∧ (withPolicy .ignore State.reset).cfg.escPolicy = .ignore ∧
    (given [.event (.byte 0x02#8)] (rx .esc 0x00#8 [] false)).atByte .esc 0x02#8 [] ∧
    (0x02#8 : Byte) ≠ 0x10#8 ∧ (0x02#8 : Byte) ≠ 0x03#8 := by decide

theorem witness_IgnoredEscapeLeavesNoTrace :
    let s := given (eventInputs [.byte 0x10#8, .byte 0x42#8]) (withPolicy .ignore (rx .body 0x00#8 [0x41#8] false))
    s.rxState = .body ∧ s.cfg.escPolicy = .ignore ∧ (0x42#8 : Byte) ≠ 0x10#8 ∧ (0x42#8 : Byte) ≠ 0x03#8 ∧
    s.inputs = eventInputs [.byte 0x10#8, .byte 0x42#8] ++ [] := by decide

/-- Both clauses at a buffer that the appended bytes fill exactly. -/
theorem witness_EscapePairingIsLeftToRight :
    let s := rx .body 0x00#8 [0x41#8] false
    s.rxState = .body ∧ withinMax (withMax 3 s).cfg (s.rxBuf.length + 2) = true ∧
    withinMax (withMax 2 s).cfg (s.rxBuf.length + 1) = true ∧
    (given (eventInputs (byteEvents [0x10#8, 0x10#8, 0x03#8])) s).inputs =
      eventInputs (byteEvents [0x10#8, 0x10#8, 0x03#8]) ++ [] ∧
    (given (eventInputs (byteEvents [0x10#8, 0x10#8, 0x10#8, 0x03#8])) s).inputs =
      eventInputs (byteEvents [0x10#8, 0x10#8, 0x10#8, 0x03#8]) ++ [] := by decide

theorem witness_ClosedAckEndsWindow :
    (given [.event (.byte 0x06#8)] (rx .closed 0x11#8 [] false)).atByte .closed 0x06#8 [] := by decide

theorem witness_ClosedNakMarksFrame :
    (given [.event (.byte 0x15#8)] (rx .closed 0x11#8 [] false)).atByte .closed 0x15#8 [] := by decide

theorem witness_ClosedSwallowsOtherByte :
    ∀ b ∈ [0x10#8, 0x03#8, 0x07#8, 0x14#8, 0x16#8],
      (given [.event (.byte b)] (rx .closed 0x11#8 [] false)).atByte .closed b [] ∧
      b ∉ [0x06#8, 0x15#8, 0x02#8] := by decide

theorem witness_TimeoutKeepsRegisters :
    ∀ st ∈ [RxState.hunt, .ctrl, .body, .esc],
      (rx st 0x00#8 [] false).rxState ≠ .closed ∧
      (given [.event .timeout] (rx st 0x00#8 [] false)).atEvent .timeout [] := by decide

theorem witness_TimeoutClosesStatusWindow :
    (rx .closed 0x11#8 [] false).rxState = .closed ∧
    (given [.event .timeout] (rx .closed 0x11#8 [] false)).atEvent .timeout [] := by decide

theorem witness_SilenceKeepsPartialFrame :
    (given (eventInputs [.timeout, .timeout]) (rx .esc 0x00#8 [0x41#8] false)).inputs =
      eventInputs (List.replicate 2 .timeout) ++ [] := by decide

theorem witness_EncodeEmitsWireFrame :
    (given [.tx (.encode 0x10#8 [0x10#8])] State.reset).inputs = .tx (.encode 0x10#8 [0x10#8]) :: [] := by decide

theorem witness_StatusBytesAreEmitted :
    (given [.tx .ack] State.reset).inputs = .tx .ack :: [] ∧
    (given [.tx .nak] State.reset).inputs = .tx .nak :: [] := by decide

/-- V-TX-6: after the first byte a run of five `0x10`, then the final `ETX`. V-TX-5: a run of two before an
ordinary byte. -/
theorem witness_EncodeLengthLaw :
    ([0x10#8, 0x10#8, 0x10#8, 0x10#8, 0x10#8, 0x03#8] : List Byte) = [] ++ List.replicate 5 0x10#8 ++ [0x03#8] ∧
    ([0x10#8, 0x10#8, 0x01#8, 0x10#8, 0x03#8] : List Byte) =
      [] ++ List.replicate 2 0x10#8 ++ [0x01#8, 0x10#8, 0x03#8] ∧
    ([] : List Byte).getLast? ≠ some 0x10#8 ∧ ([0x03#8] : List Byte).head? ≠ some 0x10#8 ∧
    ([0x01#8, 0x10#8, 0x03#8] : List Byte).head? ≠ some 0x10#8 := by decide

theorem witness_FrameRowIsByteRun :
    (given (eventInputs (byteEvents (wire 0x00#8 [0x10#8]))) State.reset).inputs =
      eventInputs (byteEvents (wire 0x00#8 [0x10#8])) ++ [] := by decide

/-- An empty payload, and one that fills the buffer exactly. -/
theorem witness_AcceptedFrameRowDelivers :
    State.reset.rxState ≠ .esc ∧ 0x02#8 ∉ ([0x10#8] : List Byte) ∧
    withinMax (withMax 0 State.reset).cfg ([] : List Byte).length = true ∧
    withinMax (withMax 1 State.reset).cfg [0x10#8].length = true := by decide

theorem witness_MdbResetFrameRowRaisesBusReset :
    (rx .closed 0x00#8 [] true).rxState ≠ .esc ∧ 0x02#8 ∉ ([0x10#8] : List Byte) := by decide

theorem witness_IllegalFrameRowIsRejected :
    (rx .body 0x00#8 [] false).rxState ≠ .esc ∧
    (∀ cc ∈ [0x10#8, 0x01#8, 0x13#8, 0xFF#8], cc ∉ [0x00#8, 0x11#8, 0x14#8, 0x17#8, 0x02#8]) ∧
    0x02#8 ∉ ([0x10#8] : List Byte) := by decide

/-- `WIRE(17; 10)` with a timeout inside it, and none (k = 0) or two after it. -/
theorem witness_EncodedFrameIsReceived :
    let pre : List RxEvent := [.byte 0x02#8, .byte 0x17#8, .timeout, .byte 0x10#8, .byte 0x10#8, .byte 0x10#8]
    exec (.encode 0x17#8 [0x10#8]) State.reset =
      .next { State.reset with txStream := State.reset.txStream ++ (bytesOf pre ++ [0x03#8]) } ∧
    0x17#8 ∈ [0x00#8, 0x11#8, 0x17#8] ∧ 0x02#8 ∉ ([0x10#8] : List Byte) ∧
    withinMax (withMax 1 (rx .body 0x00#8 [] true)).cfg [0x10#8].length = true ∧
    (rx .body 0x00#8 [] true).rxState ≠ .esc ∧
    ∀ k ∈ [0, 2], (given (eventInputs (pre ++ [.byte 0x03#8] ++ List.replicate k .timeout)) State.reset).inputs =
      eventInputs (pre ++ [.byte 0x03#8] ++ List.replicate k .timeout) ++ [] := by
  refine ⟨rfl, by decide⟩

theorem witness_HuntDropsUntilStx :
    State.reset.rxState = .hunt ∧ 0x02#8 ∉ bytesOf [.byte 0x10#8, .timeout, .byte 0x03#8] ∧
    (given (eventInputs [.byte 0x10#8, .timeout, .byte 0x03#8]) State.reset).inputs =
      eventInputs [.byte 0x10#8, .timeout, .byte 0x03#8] ++ [] := by decide

theorem witness_StxResynchronises :
    let s := given (eventInputs [.byte 0x02#8, .byte 0x00#8]) (rx .closed 0x11#8 [0x01#8] true)
    let u := given (eventInputs [.byte 0x02#8, .byte 0x00#8]) State.reset
    s.cfg = u.cfg ∧ s.rxState ≠ .esc ∧ u.rxState ≠ .esc ∧
    s.inputs = eventInputs (.byte 0x02#8 :: [.byte 0x00#8]) ∧
    u.inputs = eventInputs (.byte 0x02#8 :: [.byte 0x00#8]) := by decide

/-- V-RX-55: `ENCODE 00; 11 00 02 02 02 00`. -/
theorem witness_BodyStxDeliversWrongFrame :
    let p : List Byte := [0x11#8, 0x00#8, 0x02#8, 0x02#8] ++ 0x02#8 :: 0x00#8 :: []
    State.reset.rxState ≠ .esc ∧ 0x00#8 ∈ [0x00#8, 0x11#8, 0x17#8] ∧ 0x02#8 ∉ ([] : List Byte) ∧
    withinMax State.reset.cfg ([] : List Byte).length = true ∧
    (given (eventInputs (byteEvents (wire 0x00#8 p))) State.reset).inputs =
      eventInputs (byteEvents (wire 0x00#8 p)) ++ [] := by decide

/-- V-RX-64 has this shape with the byte `10` after the `02`; `14` is the other case. -/
theorem witness_BodyStxRaisesFalseReport :
    ∀ c ∈ [0x10#8, 0x14#8, 0x01#8, 0x12#8, 0xFF#8],
      let p : List Byte := [0x14#8] ++ 0x02#8 :: c :: [0x10#8]
      State.reset.rxState ≠ .esc ∧ c ∉ [0x00#8, 0x11#8, 0x17#8, 0x02#8] ∧ 0x02#8 ∉ ([0x10#8] : List Byte) ∧
      (given (eventInputs (byteEvents (wire 0x00#8 p))) State.reset).inputs =
        eventInputs (byteEvents (wire 0x00#8 p)) ++ [] := by decide

/-- V-RX-60 and V-RX-61, the first frame after the stale escape. -/
theorem witness_StaleEscapeCostsAFrame :
    let es : List RxEvent := List.replicate 2 .timeout ++ byteEvents (wire 0x00#8 [0x12#8])
    let s := given (eventInputs es) (rx .esc 0x00#8 [0x41#8] false)
    s.rxState = .esc ∧ 0x02#8 ∉ (0x00#8 :: [0x12#8] : List Byte) ∧ s.inputs = eventInputs es ++ [] ∧
    s.cfg.escPolicy = .reject ∧ (withPolicy .ignore s).cfg.escPolicy = .ignore ∧
    withinMax (withMax 3 s).cfg (s.rxBuf ++ 0x00#8 :: [0x12#8]).length = true := by decide

/-- V-RX-49: `PAYLOAD_MAX = 2`, three bytes. -/
theorem witness_OverlongPayloadIsLostWhole :
    let s := given (eventInputs (byteEvents (wire 0x00#8 [0xA1#8, 0xA2#8, 0xA3#8]))) (withMax 2 State.reset)
    0x00#8 ∈ [0x00#8, 0x11#8, 0x17#8] ∧ s.cfg.payloadMax = some [0xA1#8, 0xA2#8].length ∧ s.rxState ≠ .esc ∧
    0x02#8 ∉ ([0xA1#8, 0xA2#8] ++ 0xA3#8 :: [] : List Byte) ∧
    s.inputs = eventInputs (byteEvents (wire 0x00#8 ([0xA1#8, 0xA2#8] ++ 0xA3#8 :: []))) ++ [] := by decide

/-- A call that returns a frame and leaves the rest of its source unread. -/
theorem witness_DecodeCallReturnsFirstOutcome :
    let es : List RxEvent := [.byte 0x10#8, .byte 0x03#8, .byte 0x06#8]
    let s := given (eventInputs es) (rx .body 0x00#8 [0x12#8] false)
    (∃ t, decodeCall es s = .returned (.frame 0x00#8 [0x12#8]) [.byte 0x06#8] t) ∧
    s.inputs = eventInputs es ++ [] := ⟨⟨_, rfl⟩, by decide⟩

theorem witness_DecodeCallReturnsIffSomethingToReport :
    RxEvent.timeout ∈ [RxEvent.byte 0x41#8, .timeout] ∧ State.reset.rxState = .hunt := by decide

/-- One returned call for each of (a), (b), (c), and tails that are dropped. -/
theorem witness_NextDecodeCallContinues :
    (∃ t, decodeCall [.byte 0x03#8] (rx .esc 0x17#8 [0x10#8] false) = .returned (.frame 0x17#8 [0x10#8]) [] t) ∧
    (0x15#8 : Byte) ≠ 0x02#8 ∧
    (∃ t, decodeCall [.byte 0x41#8, .timeout] (rx .body 0x00#8 [] false) = .returned .timeout [] t) ∧
    (rxRun [.byte 0x41#8] (rx .body 0x00#8 [] false)).rxState ≠ .closed ∧
    (∃ t, decodeCall [.byte 0x14#8] (rx .ctrl 0x00#8 [] false) = .returned .busReset [] t) ∧
    (∃ t, decodeCall [.byte 0x55#8] (rx .ctrl 0x00#8 [] false) =
      .returned (.decodeError .unexpectedControlCode 0x55#8) [] t) ∧
    0x02#8 ∉ ([0x01#8, 0x10#8, 0x03#8] : List Byte) :=
  ⟨⟨_, rfl⟩, by decide, ⟨_, rfl⟩, by decide, ⟨_, rfl⟩, ⟨_, rfl⟩, by decide⟩

theorem witness_OutcomesAndTheirCauses :
    (given [.event .timeout] State.reset).atEvent .timeout [] ∧ isTx (.tx .ack) = true ∧
    (given [.tx .ack] State.reset).inputs = .tx .ack :: [] ∧
    (given [.rxReset] State.reset).inputs = .rxReset :: [] := by decide

/-- A step that raises `BusReset`, one that raises an overrun. -/
theorem witness_ErrorEntryStateChange :
    (given [.event (.byte 0x14#8)] (rx .ctrl 0x00#8 [] false)).atEvent (.byte 0x14#8) [] ∧
    (∃ t, step (given [.event (.byte 0x14#8)] (rx .ctrl 0x00#8 [] false)) = .next t ∧
      t.outcomes = [] ++ [.busReset]) ∧
    (given [.event (.byte 0x41#8)] (withMax 0 (rx .body 0x00#8 [] false))).atEvent (.byte 0x41#8) [] ∧
    (∃ t, step (given [.event (.byte 0x41#8)] (withMax 0 (rx .body 0x00#8 [] false))) = .next t ∧
      t.outcomes = [] ++ [.decodeError .payloadOverrun 0x41#8]) :=
  ⟨rfl, ⟨_, rfl, rfl⟩, rfl, ⟨_, rfl, rfl⟩⟩

theorem witness_NextStateTable :
    (given [.event (.byte 0x10#8)] (rx .esc 0x00#8 [] false)).atEvent (.byte 0x10#8) [] := by
  decide

theorem witness_RejectedFlagLife :
    (given [.event (.byte 0x15#8)] (rx .closed 0x00#8 [] false)).atEvent (.byte 0x15#8) [] ∧
    (given [.event (.byte 0x02#8)] (rx .hunt 0x00#8 [] true)).atEvent (.byte 0x02#8) [] ∧
    (given [.event (.byte 0x02#8)] (rx .esc 0x00#8 [] true)).atEvent (.byte 0x02#8) [] ∧
    (given [.rxReset] State.reset).inputs = .rxReset :: [] ∧
    (given [.hardReset] State.reset).inputs = .hardReset :: [] ∧
    (given [.tx .nak] State.reset).inputs = .tx .nak :: [] := by decide

theorem witness_OneEntryPerStep :
    (given [.wire 0x00#8 [], .rxReset] State.reset).inputs = .wire 0x00#8 [] :: [.rxReset] := by decide

theorem witness_ParametersAreStatic : ∃ t, step (given [.hardReset] (withMax 2 State.reset)) = .next t := ⟨_, rfl⟩

/-- A legal form of every row of R18's table, each with a step. -/
theorem witness_OnlyLegalFormsOccur :
    (rx .hunt 0x00#8 [] false).legal ∧ (rx .hunt 0x17#8 [0x41#8] true).legal ∧ (rx .ctrl 0x00#8 [] false).legal ∧
    (rx .body 0x11#8 [0x41#8] false).legal ∧ (rx .esc 0x00#8 [] false).legal ∧
    (rx .closed 0x17#8 [0x10#8] false).legal ∧
    (∃ t, step (given [.event .timeout] (rx .closed 0x17#8 [0x10#8] false)) = .next t) :=
  ⟨by decide, by decide, by decide, by decide, by decide, by decide, ⟨_, rfl⟩⟩

theorem witness_DeliveredFramesAreValid :
    let s := { given [.event (.byte 0x03#8)] (rx .esc 0x17#8 [0x10#8] false) with
                 outcomes := [.none, .frame 0x00#8 [0x41#8]] }
    s.legal ∧ s.deliveredValid ∧ ∃ t, step s = .next t :=
  ⟨by decide, by simp [State.deliveredValid, validFrame, deliverable, withinMax, given, rx, State.reset],
    ⟨_, rfl⟩⟩

end Sys2Proof.Tests
end

/-! ### One entry of the inputs, whatever it is (R12, R33) -/

section

namespace Sys2Proof.Machine

/-- The outputs of a run of RX steps, in arrival order: those of its events, each in the state the last step left
(R12, R35). -/
def rxOutputs : List RxEvent → State → List RxOut
  | [], _ => []
  | e :: es, s => rxOutput e s :: rxOutputs es (rxStep e s)

/-- R8: one output per event. -/
@[simp] theorem length_rxOutputs (es : List RxEvent) (s : State) : (rxOutputs es s).length = es.length := by
  induction es generalizing s with
  | nil => rfl
  | cons e es ih => simp [rxOutputs, ih]

theorem rxRun_outcomes (es : List RxEvent) (s : State) :
    (rxRun es s).outcomes = s.outcomes ++ rxOutputs es s := by
  induction es generalizing s with
  | nil => simp [rxRun, rxOutputs]
  | cons e es ih => simp [rxRun, rxOutputs, ih, rxStep_outcomes]

/-- What a step does with the entry it took, on the state that holds the entries behind it (`step_eq_entryEffect`). -/
def entryEffect : Input → State → State
  | .event e, s => rxStep e s
  | .wire cc payload, s => takeWire cc payload s
  | .tx c, s => { s with txStream := s.txStream ++ txBytes (.tx c) }
  | .rxReset, s => resetRegs s
  | .hardReset, s => resetRegs s

/-- The outputs a step gives for the entry it took (`entryEffect_outcomes`). -/
def entryOutputs : Input → State → List RxOut
  | .event e, s => [rxOutput e s]
  | .wire cc payload, s => rxOutputs (byteEvents (wire cc payload)) s
  | .tx _, _ => []
  | .rxReset, _ => []
  | .hardReset, _ => []

theorem step_eq_entryEffect {s : State} {inp : Input} {rest : List Input} (h : s.inputs = inp :: rest) :
    step s = .next (entryEffect inp (setInputs rest s)) := by
  cases inp with
  | event e => exact step_event h
  | wire cc payload => exact step_wire h
  | tx c =>
    cases c with
    | encode cc payload => exact step_encode h
    | ack => exact step_ack h
    | nak => exact step_nak h
  | rxReset => exact step_rxReset h
  | hardReset => exact step_hardReset h

@[simp] theorem entryEffect_cfg (inp : Input) (s : State) : (entryEffect inp s).cfg = s.cfg := by
  cases inp with
  | event e => exact rxStep_cfg s e
  | wire cc payload => exact rxRun_cfg s _
  | tx | rxReset | hardReset => rfl

@[simp] theorem entryEffect_inputs (inp : Input) (s : State) : (entryEffect inp s).inputs = s.inputs := by
  cases inp with
  | event e => exact rxStep_inputs s e
  | wire cc payload => exact rxRun_inputs s _
  | tx | rxReset | hardReset => rfl

@[simp] theorem entryEffect_outcomes (inp : Input) (s : State) :
    (entryEffect inp s).outcomes = s.outcomes ++ entryOutputs inp s := by
  cases inp with
  | event e => exact rxStep_outcomes s e
  | wire cc payload => exact rxRun_outcomes _ s
  | tx | rxReset | hardReset => exact (List.append_nil _).symm

@[simp] theorem length_entryOutputs (inp : Input) (s : State) :
    (entryOutputs inp s).length = outputCount inp := by
  cases inp with
  | wire cc payload => simp [entryOutputs, outputCount, byteEvents]
  | event | tx | rxReset | hardReset => rfl

/-- The hard reset is the one entry that is no instruction (R121). -/
theorem decodeInput_eq_none_iff {st : RxState} {inp : Input} : decodeInput st inp = none ↔ inp = .hardReset := by
  cases inp <;> simp [decodeInput]

theorem step_instr {s : State} {inp : Input} {rest : List Input} {i : Instr} (h : s.inputs = inp :: rest)
    (hi : decodeInput s.rxState inp = some i) : step s = exec i (setInputs rest s) := by
  simp only [step, fetch, h, hi]

/-! ### The capacity of the buffer (R11, R16) -/

theorem hasRoom_iff (c : Config) (n : Nat) :
    hasRoom c n = true ↔ c.payloadMax = none ∨ ∃ m, c.payloadMax = some m ∧ n < m := by
  unfold hasRoom
  cases c.payloadMax with
  | none => simp
  | some m => simp

theorem withinMax_iff (c : Config) (n : Nat) :
    withinMax c n = true ↔ c.payloadMax = none ∨ ∃ m, c.payloadMax = some m ∧ n ≤ m := by
  unfold withinMax
  cases c.payloadMax with
  | none => simp
  | some m => simp

/-! ### The statements of the scope -/

/-- Settles O55: what the step does with the entry is `entryEffect`, whose outputs are `entryOutputs`. -/
theorem oneEntryPerStep : Obligations.OneEntryPerStep := by
  intro s inp rest h
  refine ⟨_, entryOutputs inp (setInputs rest s), step_eq_entryEffect h, ?_, ?_, ?_, ?_⟩
  · exact entryEffect_inputs inp _
  · exact entryEffect_outcomes inp _
  · exact length_entryOutputs inp _
  · simp [rxCursor]

/-- Settles O56: an idle step changes nothing, and no entry's effect writes the parameters. -/
theorem parametersAreStatic : Obligations.ParametersAreStatic := by
  intro s t ht
  cases h : s.inputs with
  | nil =>
    cases (step_idle h).symm.trans ht
    rfl
  | cons inp rest =>
    cases (step_eq_entryEffect h).symm.trans ht
    exact entryEffect_cfg inp _

/-- Settles O1, by whether the entry decodes. -/
theorem stepRunsDecodedInstruction : Obligations.StepRunsDecodedInstruction := by
  intro s inp rest
  refine ⟨step_idle, fun h => ?_⟩
  cases hi : decodeInput s.rxState inp with
  | some i => exact step_instr h hi
  | none =>
    have hr : inp = .hardReset := decodeInput_eq_none_iff.mp hi
    exact ⟨hr, step_hardReset (hr ▸ h)⟩

/-- Settles O18. -/
theorem bufferRoomIsPayloadMax : Obligations.BufferRoomIsPayloadMax :=
  fun c n => ⟨hasRoom_iff c n, withinMax_iff c n⟩

end Sys2Proof.Machine
end

/-! ### The four registers: their codes, their reset values, `rx_rejected`, and the reachable forms (R14, R17, R18,
R23) -/

section

namespace Sys2Proof.Machine

/-! ### The forms of R18, one rule per group of states -/

theorem State.legal_of_hunt {s : State} (h : s.rxState = .hunt) (hf : s.cleared ∨ s.holdsFrame) : s.legal :=
  ⟨fun _ => hf, by simp [h], by simp [h]⟩

theorem State.legal_of_ctrl {s : State} (h : s.rxState = .ctrl) (hc : s.cleared) : s.legal :=
  ⟨by simp [h], fun _ => hc, by simp [h]⟩

/-- BODY, ESC and CLOSED have one row of R18's table between them. -/
theorem State.legal_of_inFrame {s : State} (h : s.rxState = .body ∨ s.rxState = .esc ∨ s.rxState = .closed)
    (hf : s.holdsFrame ∧ s.rxRejected = false) : s.legal := by
  refine ⟨fun hh => ?_, fun hc => ?_, fun _ => hf⟩
  · simp [hh] at h
  · simp [hc] at h

theorem State.legal.cleared_of_ctrl {s : State} (hs : s.legal) (h : s.rxState = .ctrl) : s.cleared :=
  hs.2.1 h

theorem State.legal.holdsFrame_of_inFrame {s : State} (hs : s.legal)
    (h : s.rxState = .body ∨ s.rxState = .esc ∨ s.rxState = .closed) : s.holdsFrame ∧ s.rxRejected = false :=
  hs.2.2 h

theorem setInputs_legal {rest : List Input} {s : State} : (setInputs rest s).legal ↔ s.legal := Iff.rfl

/-! ### Valid frames (R72, R88) -/

/-- The frame an accepted code opens, before its first payload byte. -/
theorem validFrame_nil {c : Config} {cc : Byte} (h : cc ∈ deliverable) : validFrame c cc [] :=
  ⟨h, List.not_mem_nil, withinMax_nil c⟩

theorem validFrame_append {c : Config} {cc v : Byte} {p : List Byte} (h : validFrame c cc p) (hv : v ≠ STX)
    (hr : hasRoom c p.length = true) : validFrame c cc (p ++ [v]) := by
  obtain ⟨hcc, hp, -⟩ := h
  refine ⟨hcc, ?_, ?_⟩
  · rw [List.mem_append, List.mem_singleton]
    exact not_or.mpr ⟨hp, hv.symm⟩
  · simpa using withinMax_append hr

theorem mem_deliverable_of_accepted {cc : Byte} (h : cc = DATA ∨ cc = STATUSINFO ∨ cc = GSM_STATUSINFO) :
    cc ∈ deliverable := by
  rcases h with rfl | rfl | rfl <;> decide

/-! ### Every shared operation ends in a legal form -/

theorem startFrame_legal (s : State) : (startFrame s).legal := State.legal_of_ctrl rfl ⟨rfl, rfl, rfl⟩

theorem resetRegs_legal (s : State) : (resetRegs s).legal := State.legal_of_hunt rfl (.inl ⟨rfl, rfl, rfl⟩)

/-- An error keeps `rx_rejected`, so the form is the one of an empty frame with the code `0x00`. -/
theorem raiseOutcome_legal (o : RxOut) (s : State) : (raiseOutcome o s).legal := by
  have hcc : 0x00#8 ∈ deliverable := by decide
  exact State.legal_of_hunt rfl (.inr (validFrame_nil hcc))

theorem acceptCode_legal {cc : Byte} {s : State} (hs : s.cleared)
    (hc : cc = DATA ∨ cc = STATUSINFO ∨ cc = GSM_STATUSINFO) : (acceptCode cc s).legal := by
  obtain ⟨-, hbuf, hrej⟩ := hs
  have hv : validFrame s.cfg cc s.rxBuf := by
    rw [hbuf]
    exact validFrame_nil (mem_deliverable_of_accepted hc)
  exact State.legal_of_inFrame (.inl rfl) ⟨hv, hrej⟩

theorem appendOrOverrun_legal {v b : Byte} {s : State} (hs : s.holdsFrame ∧ s.rxRejected = false) (hv : v ≠ STX) :
    (appendOrOverrun v b s).legal := by
  obtain ⟨hf, hrej⟩ := hs
  cases hr : hasRoom s.cfg s.rxBuf.length with
  | true =>
    rw [appendOrOverrun_room s hr]
    exact State.legal_of_inFrame (.inl rfl) ⟨validFrame_append hf hv hr, hrej⟩
  | false =>
    rw [appendOrOverrun_full s hr]
    exact raiseOutcome_legal _ s

/-! ### Every step keeps the legal forms -/

theorem RxMove.legal {s t : State} {e : RxEvent} (m : RxMove s e t) (hs : s.legal) : t.legal := by
  cases m with
  | restart => exact startFrame_legal s
  | huntDrop | silence => exact hs
  | accept h hc => exact acceptCode_legal (hs.cleared_of_ctrl h) hc
  | busReset | illegal | escReject => exact raiseOutcome_legal _ s
  | bodyDle h => exact State.legal_of_inFrame (.inr (.inl rfl)) (hs.holdsFrame_of_inFrame (.inl h))
  | bodyLit h hb => exact appendOrOverrun_legal (hs.holdsFrame_of_inFrame (.inl h)) hb
  | escDle h => exact appendOrOverrun_legal (hs.holdsFrame_of_inFrame (.inr (.inl h))) (by decide)
  | escEtx h => exact State.legal_of_inFrame (.inr (.inr rfl)) (hs.holdsFrame_of_inFrame (.inr (.inl h)))
  | escIgnore h => exact State.legal_of_inFrame (.inl rfl) (hs.holdsFrame_of_inFrame (.inr (.inl h)))
  | closeWindow h | nak h | silenceClosed h =>
    exact State.legal_of_hunt rfl (.inr (hs.holdsFrame_of_inFrame (.inr (.inr h))).1)

theorem rxStep_legal {s : State} (e : RxEvent) (hs : s.legal) : (rxStep e s).legal := (rxStep_move s e).legal hs

theorem rxRun_legal {s : State} (es : List RxEvent) (hs : s.legal) : (rxRun es s).legal := by
  induction es generalizing s with
  | nil => exact hs
  | cons e es ih => exact ih (rxStep_legal e hs)

theorem entryEffect_legal {s : State} (inp : Input) (hs : s.legal) : (entryEffect inp s).legal := by
  cases inp with
  | event e => exact rxStep_legal e hs
  | wire cc payload => exact rxRun_legal _ hs
  | tx => exact hs
  | rxReset | hardReset => exact resetRegs_legal s

theorem step_legal {s t : State} (hs : s.legal) (ht : step s = .next t) : t.legal := by
  cases h : s.inputs with
  | nil =>
    cases (step_idle h).symm.trans ht
    exact hs
  | cons inp rest =>
    cases (step_eq_entryEffect h).symm.trans ht
    exact entryEffect_legal inp (setInputs_legal.mpr hs)

/-! ### The life of `rx_rejected` (R17) -/

theorem appendOrOverrun_rxRejected (s : State) (v b : Byte) :
    (appendOrOverrun v b s).rxRejected = s.rxRejected := by
  cases h : hasRoom s.cfg s.rxBuf.length
  · rw [appendOrOverrun_full s h]
  · rw [appendOrOverrun_room s h]

/-- R17: what an event leaves in `rx_rejected`. -/
def rejectedAfter (s : State) (e : RxEvent) : Bool :=
  if s.rxState = .closed ∧ e = .byte NAK then true
  else if s.rxState ≠ .esc ∧ e = .byte STX then false
  else s.rxRejected

theorem rejectedAfter_nak {s : State} (h : s.rxState = .closed) : rejectedAfter s (.byte NAK) = true :=
  if_pos ⟨h, rfl⟩

theorem rejectedAfter_stx {s : State} (h : s.rxState ≠ .esc) : rejectedAfter s (.byte STX) = false := by
  simp [rejectedAfter, h, show STX ≠ NAK by decide]

theorem rejectedAfter_timeout (s : State) : rejectedAfter s .timeout = s.rxRejected := by
  simp [rejectedAfter]

theorem rejectedAfter_byte (s : State) {b : Byte} (hn : s.rxState = .closed → b ≠ NAK)
    (hb : s.rxState ≠ .esc → b ≠ STX) : rejectedAfter s (.byte b) = s.rxRejected := by
  have hnak : ¬(s.rxState = .closed ∧ RxEvent.byte b = .byte NAK) := fun ⟨h, he⟩ => hn h (RxEvent.byte.inj he)
  have hstx : ¬(s.rxState ≠ .esc ∧ RxEvent.byte b = .byte STX) := fun ⟨h, he⟩ => hb h (RxEvent.byte.inj he)
  rw [rejectedAfter, if_neg hnak, if_neg hstx]

theorem RxMove.rxRejected {s t : State} {e : RxEvent} (m : RxMove s e t) : t.rxRejected = rejectedAfter s e := by
  cases m with
  | restart h => exact (rejectedAfter_stx h).symm
  | nak h => exact (rejectedAfter_nak h).symm
  | silence | silenceClosed => exact (rejectedAfter_timeout s).symm
  | huntDrop h hb | illegal h hb => exact (rejectedAfter_byte s (by simp [h]) fun _ => hb).symm
  | accept h hc =>
    refine (rejectedAfter_byte s (by simp [h]) fun _ => ?_).symm
    rcases hc with rfl | rfl | rfl <;> decide
  | busReset h | bodyDle h => exact (rejectedAfter_byte s (by simp [h]) fun _ => by decide).symm
  | bodyLit h hb =>
    exact (appendOrOverrun_rxRejected ..).trans (rejectedAfter_byte s (by simp [h]) fun _ => hb).symm
  | escDle h =>
    exact (appendOrOverrun_rxRejected ..).trans (rejectedAfter_byte s (by simp [h]) (absurd h)).symm
  | escEtx h | escReject h | escIgnore h => exact (rejectedAfter_byte s (by simp [h]) (absurd h)).symm
  | closeWindow h hn hb => exact (rejectedAfter_byte s (fun _ => hn) fun _ => hb).symm

theorem rxStep_rxRejected (s : State) (e : RxEvent) : (rxStep e s).rxRejected = rejectedAfter s e :=
  (rxStep_move s e).rxRejected

theorem rxRun_withRejected (es : List RxEvent) (s : State) (r : Bool) :
    ∃ q, rxRun es { s with rxRejected := r } = { rxRun es s with rxRejected := q } := by
  induction es generalizing s r with
  | nil => exact ⟨r, rfl⟩
  | cons e es ih =>
    obtain ⟨q, hq⟩ := rxStep_withRejected s e r
    simp only [rxRun, hq]
    exact ih (rxStep e s) q

theorem entryEffect_withRejected (inp : Input) (s : State) (r : Bool) :
    ∃ q, entryEffect inp { s with rxRejected := r } = { entryEffect inp s with rxRejected := q } := by
  cases inp with
  | event e => exact rxStep_withRejected s e r
  | wire cc payload => exact rxRun_withRejected _ s r
  | tx => exact ⟨r, rfl⟩
  | rxReset | hardReset => exact ⟨false, rfl⟩

/-- R17: "No step of the block reads it". -/
theorem step_withRejected (s : State) (r : Bool) :
    ∃ (t : State) (q : Bool),
      step s = .next t ∧ step { s with rxRejected := r } = .next { t with rxRejected := q } := by
  by_cases h : s.inputs = []
  · exact ⟨s, r, step_idle h, step_idle (s := { s with rxRejected := r }) h⟩
  · obtain ⟨inp, rest, h⟩ := List.exists_cons_of_ne_nil h
    obtain ⟨q, hq⟩ := entryEffect_withRejected inp (setInputs rest s) r
    refine ⟨_, q, step_eq_entryEffect h, ?_⟩
    rw [← hq]
    exact step_eq_entryEffect (s := { s with rxRejected := r }) h

/-! ### The 3-bit codes of `rx_state` (R14) -/

@[simp] theorem ofBits_toBits (st : RxState) : RxState.ofBits st.toBits = .ok st := by
  cases st <;> rfl

/-! ### The registers after either reset (R23) -/

@[simp] theorem hostRead_resetRegs (s : State) : hostRead (resetRegs s) = ⟨.hunt, 0x00#8, [], false⟩ := rfl

/-! ### The statements of the state -/

/-- Settles O58: every step, whatever it takes, keeps the forms. -/
theorem onlyLegalFormsOccur : Obligations.OnlyLegalFormsOccur :=
  ⟨resetRegs_legal State.reset, fun _ _ => step_legal⟩

/-- Settles O53, clause by clause: events, resets, transmit commands, and the flag read by no step. -/
theorem rejectedFlagLife : Obligations.RejectedFlagLife := by
  intro s rest
  refine ⟨fun e he => ?_, fun h => ?_, fun c hc => ?_, step_withRejected s⟩
  · exact ⟨_, step_event he, rxStep_rxRejected (setInputs rest s) e⟩
  · rcases h with h | h
    · exact ⟨_, step_rxReset h, rfl⟩
    · exact ⟨_, step_hardReset h, rfl⟩
  · exact ⟨_, step_eq_entryEffect hc, rfl⟩

/-- Settles O7. -/
theorem rxStateCodes : Obligations.RxStateCodes :=
  ⟨rfl, rfl, rfl, rfl, rfl, ofBits_toBits, rfl, rfl, rfl⟩

/-- Settles O9: both resets are `resetRegs`. -/
theorem resetRegisterValues : Obligations.ResetRegisterValues :=
  ⟨rfl, fun s => ⟨hostRead_resetRegs s, _, rfl, hostRead_resetRegs s⟩⟩

/-- Settles O57: the registers are cleared, and nothing has been delivered. -/
theorem resetFormIsLegal : Obligations.ResetFormIsLegal :=
  ⟨resetRegs_legal State.reset, List.forall_mem_nil _⟩

end Sys2Proof.Machine
end

/-! ### The receiver reads its registers, its parameters and the events, and nothing of the transmit side (R36, R37) -/

section

namespace Sys2Proof.Machine

/-! ### An RX step does not look at the three streams -/

/-- `rxStep_txPut` for a sequence of bytes. -/
theorem rxStep_appendTxStream (s : State) (e : RxEvent) (bs : List Byte) :
    rxStep e { s with txStream := s.txStream ++ bs } = { rxStep e s with txStream := s.txStream ++ bs } := by
  induction bs generalizing s with
  | nil =>
    rw [List.append_nil]
    exact congrArg (fun k => { rxStep e s with txStream := k }) (rxStep_txStream s e)
  | cons v bs ih =>
    have h := ih (txPut v s)
    rw [rxStep_txPut, txPut_txStream, List.append_assoc] at h
    exact h

/-- Whatever the stream holds, it was appended to the empty one. -/
theorem rxStep_withTxStream (s : State) (e : RxEvent) (l : List Byte) :
    rxStep e { s with txStream := l } = { rxStep e s with txStream := l } := by
  have key : ∀ k, rxStep e { s with txStream := k } = { rxStep e { s with txStream := [] } with txStream := k } :=
    rxStep_appendTxStream { s with txStream := [] } e
  calc rxStep e { s with txStream := l }
      = { rxStep e { s with txStream := [] } with txStream := l } := key l
    _ = { rxStep e { s with txStream := s.txStream } with txStream := l } := by rw [key s.txStream]

theorem rxStep_withStreams (s : State) (e : RxEvent) (ins : List Input) (tx : List Byte) (outs : List RxOut) :
    rxStep e { s with inputs := ins, txStream := tx, outcomes := outs } =
      { rxStep e s with inputs := ins, txStream := tx, outcomes := outs ++ [rxOutput e s] } := by
  calc rxStep e (setInputs ins { s with txStream := tx, outcomes := outs })
      = setInputs ins (rxStep e { s with txStream := tx, outcomes := outs }) := rxStep_setInputs ..
    _ = setInputs ins { rxStep e { s with outcomes := outs } with txStream := tx } :=
      congrArg (setInputs ins) (rxStep_withTxStream { s with outcomes := outs } e tx)
    _ = setInputs ins { rxStep e s with txStream := tx, outcomes := outs ++ [rxOutput e s] } := by
      rw [rxStep_withOutcomes]

/-! ### Receivers that agree -/

/-- The two receivers are indistinguishable to the block: the same four registers and the same parameters, whatever
their streams hold. -/
structure SameReceiver (s u : State) : Prop where
  regs : hostRead s = hostRead u
  cfg : s.cfg = u.cfg

theorem SameReceiver.eq_withStreams {s u : State} (h : SameReceiver s u) :
    u = { s with inputs := u.inputs, txStream := u.txStream, outcomes := u.outcomes } := by
  obtain ⟨hregs, hcfg⟩ := h
  cases s
  cases u
  cases hregs
  cases hcfg
  rfl

theorem SameReceiver.rxStep_eq {s u : State} (h : SameReceiver s u) (e : RxEvent) :
    rxStep e u =
      { rxStep e s with inputs := u.inputs, txStream := u.txStream, outcomes := u.outcomes ++ [rxOutput e s] } :=
  (congrArg (rxStep e) h.eq_withStreams).trans (rxStep_withStreams ..)

theorem SameReceiver.after_rxStep {s u : State} (h : SameReceiver s u) (e : RxEvent) :
    SameReceiver (rxStep e s) (rxStep e u) := by
  rw [h.rxStep_eq e]
  exact ⟨rfl, rfl⟩

theorem SameReceiver.rxOutput_eq {s u : State} (h : SameReceiver s u) (e : RxEvent) :
    rxOutput e s = rxOutput e u := by
  have hu : (rxStep e u).outcomes = u.outcomes ++ [rxOutput e s] := congrArg State.outcomes (h.rxStep_eq e)
  have hl := (rxStep_outcomes u e).symm.trans hu
  exact (List.singleton_inj.mp (List.append_cancel_left hl)).symm

theorem SameReceiver.after_rxRun {s u : State} (h : SameReceiver s u) (es : List RxEvent) :
    SameReceiver (rxRun es s) (rxRun es u) := by
  induction es generalizing s u with
  | nil => exact h
  | cons e es ih => exact ih (h.after_rxStep e)

theorem SameReceiver.rxOutputs_eq {s u : State} (h : SameReceiver s u) (es : List RxEvent) :
    rxOutputs es s = rxOutputs es u := by
  induction es generalizing s u with
  | nil => rfl
  | cons e es ih => simp only [rxOutputs, h.rxOutput_eq e, ih (h.after_rxStep e)]

theorem SameReceiver.after_entryEffect {s u : State} (h : SameReceiver s u) (inp : Input) :
    SameReceiver (entryEffect inp s) (entryEffect inp u) := by
  cases inp with
  | event e => exact h.after_rxStep e
  | wire cc payload => exact h.after_rxRun _
  | tx => exact ⟨h.regs, h.cfg⟩
  | rxReset | hardReset => exact ⟨rfl, h.cfg⟩

theorem SameReceiver.entryOutputs_eq {s u : State} (h : SameReceiver s u) (inp : Input) :
    entryOutputs inp s = entryOutputs inp u := by
  cases inp with
  | event e => exact congrArg (· :: []) (h.rxOutput_eq e)
  | wire cc payload => exact h.rxOutputs_eq _
  | tx | rxReset | hardReset => rfl

/-! ### Transmit commands beside the receiver (R36) -/

/-- One more step of a run, on an entry of the inputs. -/
theorem runSteps_cons {s : State} {inp : Input} {rest : List Input} (n : Nat) (h : s.inputs = inp :: rest) :
    runSteps (n + 1) s = runSteps n (entryEffect inp (setInputs rest s)) :=
  run_succ (step_eq_entryEffect h)

theorem rxStep_entryEffect_tx (s : State) (c : TxCmd) (e : RxEvent) :
    rxStep e (entryEffect (.tx c) s) = entryEffect (.tx c) (rxStep e s) := by
  simp only [entryEffect, rxStep_withTxStream, rxStep_txStream]

theorem runSteps_tx_event {s : State} {c : TxCmd} {e : RxEvent} {rest : List Input}
    (h : s.inputs = .tx c :: .event e :: rest) :
    runSteps 2 s = .next (entryEffect (.tx c) (rxStep e (setInputs rest s))) := by
  rw [runSteps_cons 1 h, runSteps_cons 0 (inp := .event e) (rest := rest) rfl]
  exact congrArg Host.Outcome.next (rxStep_entryEffect_tx (setInputs rest s) c e)

theorem runSteps_event_tx {s : State} {c : TxCmd} {e : RxEvent} {rest : List Input}
    (h : s.inputs = .event e :: .tx c :: rest) :
    runSteps 2 s = .next (entryEffect (.tx c) (rxStep e (setInputs rest s))) := by
  have hin : (rxStep e (setInputs (.tx c :: rest) s)).inputs = .tx c :: rest := rxStep_inputs ..
  have hset : setInputs rest (rxStep e (setInputs (.tx c :: rest) s)) = rxStep e (setInputs rest s) :=
    (rxStep_setInputs _ e rest).symm
  rw [← hset, runSteps_cons 1 h]
  exact runSteps_cons 0 hin

theorem isTx_iff {inp : Input} : isTx inp = true ↔ ∃ c, inp = .tx c := by
  cases inp <;> simp [isTx]

/-- One induction over the inputs `l` of the first receiver; the second is presented with `l` less its transmit
commands, and keeps up with the first on every other entry. -/
theorem runSteps_filter_tx (l : List Input) {s u : State} (hs : s.inputs = l)
    (hu : u.inputs = l.filter fun i => !isTx i) (hr : SameReceiver s u) (ho : s.outcomes = u.outcomes) :
    ∃ t v, runSteps l.length s = .next t ∧ runSteps (l.filter fun i => !isTx i).length u = .next v ∧
      SameReceiver t v ∧ t.outcomes = v.outcomes := by
  induction l generalizing s u with
  | nil => exact ⟨s, u, rfl, rfl, hr, ho⟩
  | cons inp l ih =>
    rw [List.length_cons, runSteps_cons _ hs]
    cases hi : isTx inp with
    | true =>
      obtain ⟨c, rfl⟩ := isTx_iff.mp hi
      have hf : ((Input.tx c :: l).filter fun i => !isTx i) = l.filter fun i => !isTx i := rfl
      rw [hf] at hu ⊢
      exact ih rfl hu ⟨hr.regs, hr.cfg⟩ ho
    | false =>
      have hf : ((inp :: l).filter fun i => !isTx i) = inp :: l.filter fun i => !isTx i := by simp [hi]
      rw [hf] at hu ⊢
      rw [List.length_cons, runSteps_cons _ hu]
      have hr' : SameReceiver (setInputs l s) (setInputs (l.filter fun i => !isTx i) u) := ⟨hr.regs, hr.cfg⟩
      refine ih (entryEffect_inputs inp _) (entryEffect_inputs inp _) (hr'.after_entryEffect inp) ?_
      rw [entryEffect_outcomes, entryEffect_outcomes, hr'.entryOutputs_eq inp, setInputs_outcomes,
        setInputs_outcomes, ho]

/-! ### `STX` outside ESC (R37, R66) -/

/-- Every state but ESC has a row for `STX`, and each of the four starts a frame. -/
theorem rxStep_stx {s : State} (h : s.rxState ≠ .esc) : rxStep (.byte STX) s = startFrame s := by
  cases hs : s.rxState with
  | esc => exact absurd hs h
  | hunt | ctrl | body | closed =>
    rw [rxStep, hs]
    rfl

theorem rxOutput_stx {s : State} (h : s.rxState ≠ .esc) : rxOutput (.byte STX) s = .none := by
  simp [rxOutput, rxStep_stx h, startFrame_eq]

/-- A frame start leaves nothing of the registers it found. -/
theorem sameReceiver_startFrame {s u : State} (h : s.cfg = u.cfg) : SameReceiver (startFrame s) (startFrame u) :=
  ⟨rfl, h⟩

theorem sameReceiver_rxRun_stx {s u : State} (es : List RxEvent) (h : s.cfg = u.cfg) (hs : s.rxState ≠ .esc)
    (hu : u.rxState ≠ .esc) : SameReceiver (rxRun (.byte STX :: es) s) (rxRun (.byte STX :: es) u) := by
  rw [rxRun, rxRun, rxStep_stx hs, rxStep_stx hu]
  exact (sameReceiver_startFrame h).after_rxRun es

theorem rxOutputs_stx_eq {s u : State} (es : List RxEvent) (h : s.cfg = u.cfg) (hs : s.rxState ≠ .esc)
    (hu : u.rxState ≠ .esc) : rxOutputs (.byte STX :: es) s = rxOutputs (.byte STX :: es) u := by
  rw [rxOutputs, rxOutputs, rxOutput_stx hs, rxOutput_stx hu, rxStep_stx hs, rxStep_stx hu,
    (sameReceiver_startFrame h).rxOutputs_eq es]

/-- `run_events` where nothing stands behind the events. -/
theorem runSteps_eventInputs {s : State} {es : List RxEvent} (h : s.inputs = eventInputs es) :
    runSteps es.length s = .next (rxRun es (setInputs [] s)) :=
  run_events es s (h.trans (List.append_nil _).symm)

/-! ### The statements -/

/-- Settles O35: both orders come to the command's effect on the state the RX step leaves. -/
theorem txAndRxCommute : Obligations.TxAndRxCommute := by
  intro s c e rest
  have hin : (rxStep e (setInputs rest s)).inputs = rest := rxStep_inputs ..
  have htx : (rxStep e (setInputs rest s)).txStream = s.txStream := rxStep_txStream ..
  refine ⟨_, _, _, runSteps_tx_event rfl, runSteps_event_tx rfl, step_eq_entryEffect rfl, step_event rfl, hin, ?_,
    htx, rfl, rfl, rfl, rfl⟩
  exact congrArg (· ++ txBytes (.tx c)) htx

/-- Settles O36: the two runs start with the same receiver. -/
theorem receiverIgnoresTransmitCommands : Obligations.ReceiverIgnoresTransmitCommands := by
  intro s
  have hr : SameReceiver s (setInputs (s.inputs.filter fun i => !isTx i) s) := ⟨rfl, rfl⟩
  obtain ⟨t, v, ht, hv, htv, ho⟩ := runSteps_filter_tx s.inputs rfl rfl hr rfl
  exact ⟨t, v, ht, hv, htv.regs, ho⟩

/-- Settles O43: `STX` brings both receivers to one and the same frame start. -/
theorem stxResynchronises : Obligations.StxResynchronises := by
  intro s u es hc hs hu his hiu
  have hr : SameReceiver (rxRun (.byte STX :: es) (setInputs [] s)) (rxRun (.byte STX :: es) (setInputs [] u)) :=
    sameReceiver_rxRun_stx es hc hs hu
  have ho : rxOutputs (.byte STX :: es) (setInputs [] s) = rxOutputs (.byte STX :: es) (setInputs [] u) :=
    rxOutputs_stx_eq es hc hs hu
  refine ⟨_, _, _, runSteps_eventInputs his, runSteps_eventInputs hiu, hr.regs, rxRun_outcomes _ _, ?_⟩
  exact (rxRun_outcomes _ _).trans (congrArg (u.outcomes ++ ·) ho.symm)

end Sys2Proof.Machine
end

/-! ### The wire format: stuffing is inverted by unstuffing, and by nothing else (R40, R41, R45) -/

section

namespace Sys2Proof

/-- R41: stuffing puts the doubled `DLE` behind the byte. -/
theorem stuff_eq_cons (b : Byte) : stuff b = b :: List.replicate ([b].count DLE) DLE := by
  by_cases h : b = DLE
  · subst h; rfl
  · rw [stuff_of_ne h, List.count_singleton, if_neg (by simpa using h)]
    rfl

@[simp] theorem mem_stuff {a b : Byte} : a ∈ stuff b ↔ a = b := by
  by_cases h : b = DLE
  · simp [h]
  · simp [stuff_of_ne h]

@[simp] theorem mem_stuffAll {a : Byte} {bs : List Byte} : a ∈ stuffAll bs ↔ a ∈ bs := by
  simp [stuffAll]

@[simp] theorem length_stuffAll (bs : List Byte) : (stuffAll bs).length = bs.length + bs.count DLE := by
  induction bs with
  | nil => rfl
  | cons b bs ih =>
    have hcount : (b :: bs).count DLE = [b].count DLE + bs.count DLE := List.count_append (l₁ := [b])
    rw [stuffAll_cons, List.length_append, ih, stuff_eq_cons, List.length_cons, List.length_replicate,
      List.length_cons, hcount]
    omega

theorem unstuffBody_stuffAll (bs : List Byte) : unstuffBody (stuffAll bs ++ [DLE, ETX]) = .ok bs := by
  induction bs with
  | nil => exact unstuffBody_end
  | cons b bs ih =>
    rw [stuffAll_cons]
    by_cases h : b = DLE
    · rw [h, stuff_dle]
      exact (unstuffBody_pair _).trans (congrArg (Except.map _) ih)
    · rw [stuff_of_ne h]
      exact (unstuffBody_lit h (by simp)).trans (congrArg (Except.map _) ih)

theorem exists_of_map_eq_ok {α β : Type} {f : α → β} {x : Except Reject α} {b : β} (h : x.map f = .ok b) :
    ∃ a, x = .ok a ∧ f a = b := by
  cases x with
  | error r => cases h
  | ok a => exact ⟨a, rfl, Except.ok.inj h⟩

/-- R45: bytes that unstuff are the stuffed form of what they unstuff to, with the end of the frame. -/
theorem eq_stuffAll_of_unstuffBody {bytes bs : List Byte} (h : unstuffBody bytes = .ok bs) :
    bytes = stuffAll bs ++ [DLE, ETX] := by
  fun_induction unstuffBody bytes generalizing bs with
  | case1 | case2 => cases h
  | case3 rest ih =>
    obtain ⟨cs, hcs, rfl⟩ := exists_of_map_eq_ok h
    simp [← ih hcs]
  | case4 => cases h; rfl
  | case5 | case6 => cases h
  | case7 a b rest ha ih =>
    obtain ⟨cs, hcs, rfl⟩ := exists_of_map_eq_ok h
    simp [stuff_of_ne ha, ← ih hcs]

theorem parseWire_eq_ok_iff {bytes : List Byte} {cc : Byte} {p : List Byte} :
    parseWire bytes = .ok (cc, p) ↔ bytes = wire cc p := by
  constructor
  · intro h
    unfold parseWire at h
    split at h
    · cases h
    · split at h
      · next hs =>
        split at h
        · next hb =>
          cases h
          rw [hs, eq_stuffAll_of_unstuffBody hb, wire_eq]
        · cases h
        · cases h
      · cases h
  · rintro rfl
    rw [wire_eq, parseWire, if_pos rfl, unstuffBody_stuffAll]

end Sys2Proof
end

/-! ### The decoder and the encoder: each format's decoder gives a well-formed instruction whose code is the one
decoded (R46, R48, R54) -/

section

namespace Sys2Proof

/-! ### The operands of the default rows, by the names of the constants (R46, R48) -/

theorem wellFormed_huntOther {b : Byte} : (Instr.huntOther b).wellFormed = true ↔ b ≠ STX := by
  simp [Instr.wellFormed, STX]

theorem wellFormed_ctrlIllegal {b : Byte} : (Instr.ctrlIllegal b).wellFormed = true ↔
    b ≠ STX ∧ b ≠ DATA ∧ b ≠ STATUSINFO ∧ b ≠ GSM_STATUSINFO ∧ b ≠ MDB_RESET := by
  simp [Instr.wellFormed, STX, DATA, STATUSINFO, GSM_STATUSINFO, MDB_RESET]

theorem wellFormed_bodyLit {b : Byte} : (Instr.bodyLit b).wellFormed = true ↔ b ≠ STX ∧ b ≠ DLE := by
  simp [Instr.wellFormed, STX, DLE]

theorem wellFormed_escOther {b : Byte} : (Instr.escOther b).wellFormed = true ↔ b ≠ DLE ∧ b ≠ ETX := by
  simp [Instr.wellFormed, DLE, ETX]

theorem wellFormed_closedOther {b : Byte} : (Instr.closedOther b).wellFormed = true ↔
    b ≠ ACK ∧ b ≠ NAK ∧ b ≠ STX := by
  simp [Instr.wellFormed, ACK, NAK, STX]

theorem wellFormed_frameIllegal {cc : Byte} {p : List Byte} : (Instr.frameIllegal cc p).wellFormed = true ↔
    cc ≠ DATA ∧ cc ≠ STATUSINFO ∧ cc ≠ GSM_STATUSINFO ∧ cc ≠ MDB_RESET := by
  simp [Instr.wellFormed, DATA, STATUSINFO, GSM_STATUSINFO, MDB_RESET]

/-! ### Encoding what was decoded -/

theorem wellFormed_decodeByte (st : RxState) (b : Byte) : (decodeByte st b).wellFormed = true := by
  cases st <;> simp only [decodeByte] <;> repeat' split
  case hunt.isFalse h => exact wellFormed_huntOther.mpr h
  case ctrl.isFalse.isFalse.isFalse.isFalse.isFalse => exact wellFormed_ctrlIllegal.mpr ⟨‹_›, ‹_›, ‹_›, ‹_›, ‹_›⟩
  case body.isFalse.isFalse hs hd => exact wellFormed_bodyLit.mpr ⟨hs, hd⟩
  case esc.isFalse.isFalse hd he => exact wellFormed_escOther.mpr ⟨hd, he⟩
  case closed.isFalse.isFalse.isFalse ha hn hs => exact wellFormed_closedOther.mpr ⟨ha, hn, hs⟩
  all_goals rfl

theorem encode_decodeByte (st : RxState) (b : Byte) : encode (decodeByte st b) = .byte st b := by
  cases st <;> simp only [decodeByte] <;> (repeat' split) <;> simp [encode, *]

theorem wellFormed_decodeTimeout (st : RxState) : (decodeTimeout st).wellFormed = true := by
  cases st <;> rfl

theorem encode_decodeTimeout (st : RxState) : encode (decodeTimeout st) = .timeout st := by
  cases st <;> rfl

theorem wellFormed_decodeFrame (cc : Byte) (p : List Byte) : (decodeFrame cc p).wellFormed = true := by
  unfold decodeFrame
  repeat' split
  case isFalse.isFalse.isFalse.isFalse => exact wellFormed_frameIllegal.mpr ⟨‹_›, ‹_›, ‹_›, ‹_›⟩
  all_goals rfl

theorem encode_decodeFrame (cc : Byte) (p : List Byte) : encode (decodeFrame cc p) = .frame (wire cc p) := by
  unfold decodeFrame
  (repeat' split) <;> simp [encode, *]

theorem wellFormed_and_encode_of_decodeTxBytes {bytes : List Byte} {i : Instr} (h : decodeTxBytes bytes = .ok i) :
    i.wellFormed = true ∧ encode i = .txCmd bytes := by
  unfold decodeTxBytes at h
  split at h
  · next hb => cases h; exact ⟨rfl, congrArg Code.txCmd hb.symm⟩
  split at h
  · next hb => cases h; exact ⟨rfl, congrArg Code.txCmd hb.symm⟩
  · obtain ⟨⟨cc, p⟩, hf, rfl⟩ := exists_of_map_eq_ok h
    exact ⟨rfl, congrArg Code.txCmd (parseWire_eq_ok_iff.mp hf).symm⟩

/-! ### Decoding what was encoded -/

theorem decodeCode_frame_wire (cc : Byte) (p : List Byte) :
    decodeCode (.frame (wire cc p)) = .ok (decodeFrame cc p) := by
  rw [decodeCode, parseWire_eq_ok_iff.mpr rfl]
  rfl

/-- A wire frame begins with `STX`, so it is neither `ACK` nor `NAK`. -/
theorem decodeCode_txCmd_wire (cc : Byte) (p : List Byte) :
    decodeCode (.txCmd (wire cc p)) = .ok (.encode cc p) := by
  have hack : wire cc p ≠ [ACK] := by simp [wire_eq]
  have hnak : wire cc p ≠ [NAK] := by simp [wire_eq]
  rw [decodeCode, decodeTxBytes, if_neg hack, if_neg hnak, parseWire_eq_ok_iff.mpr rfl]
  rfl

theorem decodeCode_encode {i : Instr} (h : i.wellFormed = true) : decodeCode (encode i) = .ok i := by
  cases i with
  | huntOther b =>
    have hs := wellFormed_huntOther.mp h
    simp [encode, decodeCode, decodeByte, hs]
  | ctrlIllegal b =>
    obtain ⟨hs, hd, hi, hg, hm⟩ := wellFormed_ctrlIllegal.mp h
    simp [encode, decodeCode, decodeByte, hs, hd, hi, hg, hm]
  | bodyLit b =>
    obtain ⟨hs, hd⟩ := wellFormed_bodyLit.mp h
    simp [encode, decodeCode, decodeByte, hs, hd]
  | escOther b =>
    obtain ⟨hd, he⟩ := wellFormed_escOther.mp h
    simp [encode, decodeCode, decodeByte, hd, he]
  | closedOther b =>
    obtain ⟨ha, hn, hs⟩ := wellFormed_closedOther.mp h
    simp [encode, decodeCode, decodeByte, ha, hn, hs]
  | frameData p => exact decodeCode_frame_wire DATA p
  | frameStatusinfo p => exact decodeCode_frame_wire STATUSINFO p
  | frameGsmStatusinfo p => exact decodeCode_frame_wire GSM_STATUSINFO p
  | frameMdbReset p => exact decodeCode_frame_wire MDB_RESET p
  | frameIllegal cc p =>
    obtain ⟨hd, hi, hg, hm⟩ := wellFormed_frameIllegal.mp h
    rw [encode, decodeCode_frame_wire, decodeFrame, if_neg hd, if_neg hi, if_neg hg, if_neg hm]
  | encode cc p => exact decodeCode_txCmd_wire cc p
  | _ => rfl

/-- The code under which an entry reaches the block decodes to the entry's own instruction. -/
theorem decodeInput_of_inputCode {st : RxState} {inp : Input} {c : Code} (h : inputCode st inp = some c) :
    ∃ i, decodeCode c = .ok i ∧ decodeInput st inp = some i := by
  cases inp with
  | event e => cases e <;> cases h <;> exact ⟨_, rfl, rfl⟩
  | wire cc p => cases h; exact ⟨_, decodeCode_frame_wire cc p, rfl⟩
  | tx cmd =>
    cases cmd with
    | encode cc p => cases h; exact ⟨_, decodeCode_txCmd_wire cc p, rfl⟩
    | ack | nak => cases h; exact ⟨_, rfl, rfl⟩
  | rxReset => cases h; exact ⟨_, rfl, rfl⟩
  | hardReset => cases h

/-! ### The row an instruction's code selects (R54): the family of Laws, for every instruction -/

theorem selectRow_encode (i : Instr) : Laws.TableRow.Statement i := by
  cases i with
  | huntOther b => exact Laws.TableRow.huntOther b
  | ctrlIllegal b => exact Laws.TableRow.ctrlIllegal b
  | bodyLit b => exact Laws.TableRow.bodyLit b
  | escOther b => exact Laws.TableRow.escOther b
  | closedOther b => exact Laws.TableRow.closedOther b
  | frameData p => exact Laws.TableRow.frameData p
  | frameStatusinfo p => exact Laws.TableRow.frameStatusinfo p
  | frameGsmStatusinfo p => exact Laws.TableRow.frameGsmStatusinfo p
  | frameMdbReset p => exact Laws.TableRow.frameMdbReset p
  | frameIllegal cc p => exact Laws.TableRow.frameIllegal cc p
  | encode cc p => exact Laws.TableRow.encode cc p
  | huntStx => exact Laws.TableRow.huntStx
  | ctrlStx => exact Laws.TableRow.ctrlStx
  | ctrlData => exact Laws.TableRow.ctrlData
  | ctrlStatusinfo => exact Laws.TableRow.ctrlStatusinfo
  | ctrlGsmStatusinfo => exact Laws.TableRow.ctrlGsmStatusinfo
  | ctrlMdbReset => exact Laws.TableRow.ctrlMdbReset
  | bodyStx => exact Laws.TableRow.bodyStx
  | bodyDle => exact Laws.TableRow.bodyDle
  | escDle => exact Laws.TableRow.escDle
  | escEtx => exact Laws.TableRow.escEtx
  | closedAck => exact Laws.TableRow.closedAck
  | closedNak => exact Laws.TableRow.closedNak
  | closedStx => exact Laws.TableRow.closedStx
  | huntTimeout => exact Laws.TableRow.huntTimeout
  | ctrlTimeout => exact Laws.TableRow.ctrlTimeout
  | bodyTimeout => exact Laws.TableRow.bodyTimeout
  | escTimeout => exact Laws.TableRow.escTimeout
  | closedTimeout => exact Laws.TableRow.closedTimeout
  | txAck => exact Laws.TableRow.txAck
  | txNak => exact Laws.TableRow.txNak
  | rxReset => exact Laws.TableRow.rxReset

theorem selectRow_decodeByte (st : RxState) (b : Byte) :
    selectRow st.format b = some (decodeByte st b).row := by
  have h := selectRow_encode _ (wellFormed_decodeByte st b) b
  rw [encode_decodeByte] at h
  exact h rfl

theorem selectRow_decodeFrame (cc : Byte) (p : List Byte) : selectRow .frame cc = some (decodeFrame cc p).row := by
  have h := selectRow_encode _ (wellFormed_decodeFrame cc p) cc
  rw [encode_decodeFrame] at h
  exact h (Laws.TableRow.wire_key cc p)

/-! ### The statements -/

/-- Settles O4: format by format, `decodeCode_encode`. -/
theorem decodeInvertsEncode : Obligations.DecodeInvertsEncode :=
  fun _ => decodeCode_encode

/-- Settles O5, by the format of the code: each format's decoder gives a well-formed instruction that encodes to the
code. -/
theorem encodeInvertsDecode : Obligations.EncodeInvertsDecode := by
  intro c i h
  cases c with
  | byte st b => cases h; exact ⟨wellFormed_decodeByte st b, encode_decodeByte st b⟩
  | timeout st => cases h; exact ⟨wellFormed_decodeTimeout st, encode_decodeTimeout st⟩
  | frame bytes =>
    obtain ⟨⟨cc, p⟩, hf, rfl⟩ := exists_of_map_eq_ok h
    rw [parseWire_eq_ok_iff.mp hf]
    exact ⟨wellFormed_decodeFrame cc p, encode_decodeFrame cc p⟩
  | txCmd bytes => exact wellFormed_and_encode_of_decodeTxBytes h
  | rxReset => cases h; exact ⟨rfl, rfl⟩

/-- Settles O2: the instruction of the entry's code is well formed because its code decodes (O5). -/
theorem inputCodeDecodesToItsInstruction : Obligations.InputCodeDecodesToItsInstruction := by
  intro st inp c h
  obtain ⟨i, hc, hi⟩ := decodeInput_of_inputCode h
  obtain ⟨hw, -⟩ := encodeInvertsDecode c i hc
  exact ⟨i, hc, hi, hw⟩

/-- Settles O6: the instruction's own code selects its row, and that code is the byte or the frame decoded. -/
theorem decodeMapIsOpcodeTable : Obligations.DecodeMapIsOpcodeTable :=
  ⟨selectRow_decodeByte, selectRow_decodeFrame⟩

/-- Settles O3: the words of instructions are their encodings (O4); the last has no body to read a code from. -/
theorem specWordsDecode : Obligations.SpecWordsDecode :=
  ⟨decodeCode_encode (i := .huntStx) rfl, decodeCode_encode (i := .huntOther 0x10#8) rfl,
    decodeCode_encode (i := .ctrlStatusinfo) rfl, decodeCode_encode (i := .ctrlIllegal 0x10#8) rfl,
    decodeCode_encode (i := .bodyLit 0x03#8) rfl, decodeCode_encode (i := .escEtx) rfl,
    decodeCode_encode (i := .escOther 0x02#8) rfl, decodeCode_encode (i := .closedNak) rfl,
    decodeCode_encode (i := .escTimeout) rfl, decodeCode_encode (i := .frameGsmStatusinfo [0x10#8, 0x03#8]) rfl,
    decodeCode_encode (i := .encode 0x10#8 [0x01#8]) rfl, decodeCode_encode (i := .txAck) rfl, rfl⟩

end Sys2Proof
end

/-! ### The receiver over the bytes of a wire frame: one rule per byte step, then the runs (R48, R53, R65 to R71, R79
to R84) -/

section

namespace Sys2Proof.Machine

/-! ### The byte steps of the frame grammar, one rule per row -/

/-- A byte runs the instruction it encodes in the present state. -/
theorem rxStep_byte_of_encode {s : State} {b : Byte} {i : Instr} (hw : i.wellFormed = true)
    (hc : encode i = .byte s.rxState b) : rxStep (.byte b) s = rxEffect i s := by
  have hd : decodeByte s.rxState b = i := by
    have h := decodeCode_encode hw
    rw [hc] at h
    exact Except.ok.inj h
  rw [← hd]
  rfl

theorem rxStep_hunt_other {s : State} {b : Byte} (h : s.rxState = .hunt) (hb : b ≠ STX) :
    rxStep (.byte b) s = out .none s :=
  rxStep_byte_of_encode (wellFormed_huntOther.mpr hb) (by rw [h]; rfl)

theorem mem_deliverable_iff {cc : Byte} : cc ∈ deliverable ↔ cc = DATA ∨ cc = STATUSINFO ∨ cc = GSM_STATUSINFO := by
  simp [deliverable, DATA, STATUSINFO, GSM_STATUSINFO]

theorem rxStep_ctrl_accepted {s : State} {cc : Byte} (h : s.rxState = .ctrl) (hc : cc ∈ deliverable) :
    rxStep (.byte cc) s = acceptCode cc s := by
  rcases mem_deliverable_iff.mp hc with rfl | rfl | rfl
  · exact rxStep_byte_of_encode (i := .ctrlData) rfl (by rw [h]; rfl)
  · exact rxStep_byte_of_encode (i := .ctrlStatusinfo) rfl (by rw [h]; rfl)
  · exact rxStep_byte_of_encode (i := .ctrlGsmStatusinfo) rfl (by rw [h]; rfl)

theorem rxStep_ctrl_mdbReset {s : State} (h : s.rxState = .ctrl) : rxStep (.byte MDB_RESET) s = raiseBusReset s :=
  rxStep_byte_of_encode (i := .ctrlMdbReset) rfl (by rw [h]; rfl)

theorem rxStep_ctrl_illegal {s : State} {cc : Byte} (h : s.rxState = .ctrl)
    (hw : (Instr.ctrlIllegal cc).wellFormed = true) :
    rxStep (.byte cc) s = raiseDecodeError .unexpectedControlCode cc s :=
  rxStep_byte_of_encode hw (by rw [h]; rfl)

theorem rxStep_body_dle {s : State} (h : s.rxState = .body) : rxStep (.byte DLE) s = out .none (goto .esc s) :=
  rxStep_byte_of_encode (i := .bodyDle) rfl (by rw [h]; rfl)

theorem rxStep_body_literal {s : State} {b : Byte} (h : s.rxState = .body) (hs : b ≠ STX) (hd : b ≠ DLE) :
    rxStep (.byte b) s = appendOrOverrun b b s :=
  rxStep_byte_of_encode (wellFormed_bodyLit.mpr ⟨hs, hd⟩) (by rw [h]; rfl)

theorem rxStep_esc_dle {s : State} (h : s.rxState = .esc) : rxStep (.byte DLE) s = appendOrOverrun DLE DLE s :=
  rxStep_byte_of_encode (i := .escDle) rfl (by rw [h]; rfl)

theorem rxStep_esc_etx {s : State} (h : s.rxState = .esc) :
    rxStep (.byte ETX) s = out (.frame s.rxCc s.rxBuf) (goto .closed s) :=
  rxStep_byte_of_encode (i := .escEtx) rfl (by rw [h]; rfl)

/-! ### Runs of bytes -/

theorem byteEvents_append (bs cs : List Byte) : byteEvents (bs ++ cs) = byteEvents bs ++ byteEvents cs :=
  List.map_append

theorem rxRun_byteEvents_append (bs cs : List Byte) (s : State) :
    rxRun (byteEvents (bs ++ cs)) s = rxRun (byteEvents cs) (rxRun (byteEvents bs) s) := by
  rw [byteEvents_append, rxRun_append]

theorem rxRun_byteEvents_cons (b : Byte) (bs : List Byte) (s : State) :
    rxRun (byteEvents (b :: bs)) s = rxRun (byteEvents bs) (rxStep (.byte b) s) := rfl

/-- R65: HUNT drops every byte but `STX`, without report. -/
theorem rxRun_hunt_drop {s : State} {bs : List Byte} (h : s.rxState = .hunt) (hbs : STX ∉ bs) :
    rxRun (byteEvents bs) s = { s with outcomes := s.outcomes ++ List.replicate bs.length .none } := by
  induction bs generalizing s with
  | nil => simp [byteEvents, rxRun]
  | cons b bs ih =>
    obtain ⟨hb, hbs⟩ := not_or.mp (mt List.mem_cons.mpr hbs)
    rw [rxRun_byteEvents_cons, rxStep_hunt_other h (Ne.symm hb), ih (s := out .none s) h hbs]
    simp [out, List.replicate_succ]

/-- R69, R70: the stuffed form of a byte is one literal, one output for each of its bytes. -/
theorem rxRun_body_stuff {s : State} {b : Byte} (h : s.rxState = .body) (hb : b ≠ STX)
    (hr : hasRoom s.cfg s.rxBuf.length = true) :
    rxRun (byteEvents (stuff b)) s =
      { s with rxBuf := s.rxBuf ++ [b], outcomes := s.outcomes ++ List.replicate (stuff b).length .none } := by
  by_cases hd : b = DLE
  · have he : (out .none (goto .esc s)).rxState = .esc := rfl
    rw [hd, stuff_dle, rxRun_byteEvents_cons, rxStep_body_dle h, rxRun_byteEvents_cons, rxStep_esc_dle he,
      appendOrOverrun_room (out .none (goto .esc s)) hr]
    simp [byteEvents, rxRun, out, goto, h, List.replicate_succ]
  · rw [stuff_of_ne hd, rxRun_byteEvents_cons, rxStep_body_literal h hb hd, appendOrOverrun_room s hr]
    simp [byteEvents, rxRun, h, List.replicate_succ]

theorem hasRoom_of_withinMax {c : Config} {n m : Nat} (h : withinMax c m = true) (hn : n < m) :
    hasRoom c n = true := by
  rw [withinMax_iff] at h
  rw [hasRoom_iff]
  exact h.imp_right fun ⟨k, hk, hm⟩ => ⟨k, hk, Nat.lt_of_lt_of_le hn hm⟩

/-- R45, R69, R70: the stuffed form of a payload without `STX` that fits is appended as that payload. -/
theorem rxRun_body_stuffAll {s : State} {p : List Byte} (h : s.rxState = .body) (hp : STX ∉ p)
    (hm : withinMax s.cfg (s.rxBuf.length + p.length) = true) :
    rxRun (byteEvents (stuffAll p)) s =
      { s with rxBuf := s.rxBuf ++ p, outcomes := s.outcomes ++ List.replicate (stuffAll p).length .none } := by
  induction p generalizing s with
  | nil => simp [byteEvents, rxRun]
  | cons b p ih =>
    obtain ⟨hb, hp⟩ := not_or.mp (mt List.mem_cons.mpr hp)
    have hr : hasRoom s.cfg s.rxBuf.length = true := hasRoom_of_withinMax hm (by simp)
    rw [stuffAll_cons, rxRun_byteEvents_append, rxRun_body_stuff h (Ne.symm hb) hr, ih ?_ hp ?_]
    · simp [← List.replicate_append_replicate]
    · exact h
    · simpa [Nat.add_assoc, Nat.add_comm 1] using hm

/-- R68, R71: the end of a frame delivers what the registers hold. -/
theorem rxRun_body_end {s : State} (h : s.rxState = .body) :
    rxRun (byteEvents [DLE, ETX]) s =
      { s with rxState := .closed, outcomes := s.outcomes ++ [.none, .frame s.rxCc s.rxBuf] } := by
  have he : (out .none (goto .esc s)).rxState = .esc := rfl
  rw [rxRun_byteEvents_cons, rxStep_body_dle h, rxRun_byteEvents_cons, rxStep_esc_etx he]
  simp [byteEvents, rxRun, out, goto]

/-- R71, R76: the rest of a frame, from the payload's first byte on. -/
theorem rxRun_body_frame {s : State} {p : List Byte} (h : s.rxState = .body) (hp : STX ∉ p)
    (hm : withinMax s.cfg (s.rxBuf.length + p.length) = true) :
    rxRun (byteEvents (stuffAll p ++ [DLE, ETX])) s =
      { s with rxState := .closed, rxBuf := s.rxBuf ++ p,
               outcomes := s.outcomes ++ List.replicate (p.length + p.count DLE + 1) .none ++
                 [.frame s.rxCc (s.rxBuf ++ p)] } := by
  rw [rxRun_byteEvents_append, rxRun_body_stuffAll h hp hm, rxRun_body_end ?_, length_stuffAll, List.replicate_succ']
  · simp
  · exact h

/-! ### Whole wire frames (R48, R53) -/

/-- R53: outside ESC the first byte of a wire frame starts it, and the control code comes next, stuffed. -/
theorem takeWire_eq {s : State} (h : s.rxState ≠ .esc) (cc : Byte) (p : List Byte) :
    takeWire cc p s =
      rxRun (byteEvents (List.replicate ([cc].count DLE) DLE ++ stuffAll p ++ [DLE, ETX]))
        (rxStep (.byte cc) (startFrame s)) := by
  rw [takeWire, wire_eq, rxRun_byteEvents_cons, rxStep_stx h, stuffAll_cons, stuff_eq_cons]
  rfl

/-- R79: the control code `STX` is another frame start. -/
theorem takeWire_stx {s : State} (h : s.rxState ≠ .esc) (p : List Byte) :
    takeWire STX p s = rxRun (byteEvents (stuffAll p ++ [DLE, ETX])) (startFrame (startFrame s)) := by
  have hs : rxStep (.byte STX) (startFrame s) = startFrame (startFrame s) := rxStep_stx (by simp [startFrame_eq])
  rw [takeWire_eq h, hs]
  rfl

/-- R80 to R82: an accepted code is no `DLE`, so the payload comes next. -/
theorem takeWire_accepted {s : State} {cc : Byte} {p : List Byte} (h : s.rxState ≠ .esc) (hc : cc ∈ deliverable)
    (hp : STX ∉ p) (hm : withinMax s.cfg p.length = true) :
    takeWire cc p s =
      { s with rxState := .closed, rxCc := cc, rxBuf := p, rxRejected := false,
               outcomes := s.outcomes ++ List.replicate (p.length + p.count DLE + 3) .none ++ [.frame cc p] } := by
  have hcount : [cc].count DLE = 0 := by rcases mem_deliverable_iff.mp hc with rfl | rfl | rfl <;> rfl
  have hroom : withinMax (startFrame s).cfg ((startFrame s).rxBuf.length + p.length) = true := by
    simpa [startFrame_eq] using hm
  rw [takeWire_eq h, hcount, List.replicate_zero, List.nil_append, rxStep_ctrl_accepted rfl hc,
    rxRun_body_frame (s := acceptCode cc (startFrame s)) rfl hp hroom, acceptCode_eq, startFrame_eq]
  simp [List.replicate_succ]

/-- R65, R83, R84: once the byte of the control code has taken the receiver to HUNT, the rest of the frame is
dropped. -/
theorem takeWire_dropped {s : State} {cc : Byte} {p : List Byte} (h : s.rxState ≠ .esc) (hp : STX ∉ p)
    {o : RxOut} (ho : rxStep (.byte cc) (startFrame s) = raiseOutcome o (startFrame s)) :
    takeWire cc p s =
      { s with rxState := .hunt, rxCc := 0x00#8, rxBuf := [], rxRejected := false,
               outcomes := s.outcomes ++ [.none, o] ++
                 List.replicate (p.length + (cc :: p).count DLE + 2) .none } := by
  have hrest : STX ∉ List.replicate ([cc].count DLE) DLE ++ stuffAll p ++ [DLE, ETX] := by
    simp [hp, show STX ≠ DLE by decide, show STX ≠ ETX by decide]
  have hcount : (cc :: p).count DLE = [cc].count DLE + p.count DLE := List.count_append (l₁ := [cc])
  have hlen : (List.replicate ([cc].count DLE) DLE ++ stuffAll p ++ [DLE, ETX]).length =
      p.length + (cc :: p).count DLE + 2 := by
    rw [hcount, List.length_append, List.length_append, List.length_replicate, length_stuffAll,
      List.length_cons, List.length_singleton]
    omega
  rw [takeWire_eq h, ho, rxRun_hunt_drop rfl hrest, hlen, raiseOutcome_eq, startFrame_eq]
  simp

/-! ### The statements -/

/-- Settles O37: a frame row is `takeWire`, and so is a run over its bytes. -/
theorem frameRowIsByteRun : Obligations.FrameRowIsByteRun := by
  intro s cc p rest h
  refine ⟨_, exec_decodeFrame cc p _, ?_⟩
  have hrun := run_events (byteEvents (wire cc p)) s h
  rwa [byteEvents, List.length_map] at hrun

/-- Settles O38: each of the three rows is `takeWire` of an accepted code. -/
theorem acceptedFrameRowDelivers : Obligations.AcceptedFrameRowDelivers := by
  intro s p r hr h hp hm
  simp only [List.mem_cons, List.not_mem_nil, or_false] at hr
  rcases hr with rfl | rfl | rfl
  · exact congrArg Host.Outcome.next (takeWire_accepted (cc := DATA) h (by decide) hp hm)
  · exact congrArg Host.Outcome.next (takeWire_accepted (cc := STATUSINFO) h (by decide) hp hm)
  · exact congrArg Host.Outcome.next (takeWire_accepted (cc := GSM_STATUSINFO) h (by decide) hp hm)

/-- Settles O39: the control code raises `BusReset`, and the rest of the frame meets HUNT. -/
theorem mdbResetFrameRowRaisesBusReset : Obligations.MdbResetFrameRowRaisesBusReset :=
  fun _ _ h hp => congrArg Host.Outcome.next (takeWire_dropped h hp (rxStep_ctrl_mdbReset rfl))

/-- Settles O40: an illegal code raises its error and the rest meets HUNT; the code `02` starts the frame anew. -/
theorem illegalFrameRowIsRejected : Obligations.IllegalFrameRowIsRejected := by
  intro s cc p h
  constructor
  · intro hcc hp
    have hw : (Instr.ctrlIllegal cc).wellFormed = true := by
      simpa [Instr.wellFormed, and_assoc, and_comm, and_left_comm] using hcc
    exact congrArg Host.Outcome.next (takeWire_dropped h hp (rxStep_ctrl_illegal rfl hw))
  · have hstart : startFrame (startFrame s) =
        { s with rxState := .ctrl, rxCc := 0x00#8, rxBuf := [], rxRejected := false,
                 outcomes := s.outcomes ++ [.none, .none] } := by
      simp [startFrame_eq]
    rw [← hstart]
    exact congrArg Host.Outcome.next (takeWire_stx h p)

/-- Settles O24: `10 10 03` is the stuffed form of two literals; `10 10 10 03` is that of one, and the end of the
frame. -/
theorem escapePairingIsLeftToRight : Obligations.EscapePairingIsLeftToRight := by
  intro s rest h
  constructor
  · intro hm hin
    have hbody := rxRun_body_stuffAll (s := setInputs rest s) (p := [DLE, ETX]) h (by decide) hm
    exact (run_events _ s hin).trans (congrArg Host.Outcome.next hbody)
  · intro hm hin
    have hframe := rxRun_body_frame (s := setInputs rest s) (p := [DLE]) h (by decide) hm
    rw [List.append_assoc] at hframe
    exact (run_events _ s hin).trans (congrArg Host.Outcome.next hframe)

end Sys2Proof.Machine
end

/-! ### The transmit framer: what the commands emit, and what a run leaves on the TX stream (R55, R58 to R62) -/

section

namespace Sys2Proof

/-! ### The length of a wire frame (R58) -/

theorem length_wire (cc : Byte) (p : List Byte) :
    (wire cc p).length = 4 + p.length + (cc :: p).count DLE := by
  rw [wire_eq, List.length_cons, List.length_append, length_stuffAll]
  simp only [List.length_cons, List.length_nil]
  omega

/-! ### The maximal runs of `DLE` in the stuffed part of a wire frame (R58) -/

theorem getLast?_ne_of_cons {a v : Byte} {l : List Byte} (h : (a :: l).getLast? ≠ some v) :
    l.getLast? ≠ some v := by
  intro hl
  rw [List.getLast?_cons, hl] at h
  exact h rfl

/-- The run at the front: the pairs are taken off until a literal or the end of the frame stands there. -/
theorem leadingRun_parity {bs after : List Byte} {n : Nat}
    (h : stuffAll bs ++ [DLE, ETX] = List.replicate n DLE ++ after) (ha : after.head? ≠ some DLE) :
    n % 2 = if after = [ETX] then 1 else 0 := by
  induction bs generalizing n with
  | nil =>
    match n with
    | 0 => subst h; exact absurd rfl ha
    | 1 => obtain ⟨-, rfl⟩ := List.cons.inj h; rfl
    | n + 2 => simp [List.replicate_succ, show ETX ≠ DLE by decide] at h
  | cons b bs ih =>
    by_cases hb : b = DLE
    · rw [hb, stuffAll_cons, stuff_dle] at h
      match n with
      | 0 => subst h; exact absurd rfl ha
      | 1 => obtain ⟨-, rfl⟩ := List.cons.inj h; exact absurd rfl ha
      | n + 2 =>
        have hrest : stuffAll bs ++ [DLE, ETX] = List.replicate n DLE ++ after := by
          simpa [List.replicate_succ] using h
        rw [Nat.add_mod_right]
        exact ih hrest
    · rw [stuffAll_cons, stuff_of_ne hb] at h
      match n with
      | 0 => subst h; simp
      | n + 1 => exact absurd (List.cons.inj h).1 hb

/-- A maximal run never begins at the second byte of a pair, so the bytes before it are whole stuffed bytes: they are
taken off one stuffed byte at a time, until the run stands at the front. -/
theorem maximalRun_parity {bs before after : List Byte} {n : Nat}
    (h : stuffAll bs ++ [DLE, ETX] = before ++ List.replicate n DLE ++ after)
    (hb : before.getLast? ≠ some DLE) (ha : after.head? ≠ some DLE) :
    n % 2 = if after = [ETX] then 1 else 0 := by
  induction bs generalizing before with
  | nil =>
    match before with
    | [] => exact leadingRun_parity (bs := []) h ha
    | [x] => exact absurd (congrArg some (List.cons.inj h).1.symm) hb
    | x :: y :: before =>
      have hend : [] = before ++ List.replicate n DLE ++ after := (List.cons.inj (List.cons.inj h).2).2
      simp only [List.nil_eq, List.append_eq_nil_iff, List.replicate_eq_nil_iff] at hend
      obtain ⟨⟨-, rfl⟩, rfl⟩ := hend
      rfl
  | cons b bs ih =>
    match before with
    | [] => exact leadingRun_parity h ha
    | x :: before =>
      by_cases hd : b = DLE
      · rw [hd, stuffAll_cons, stuff_dle] at h
        match before with
        | [] => exact absurd (congrArg some (List.cons.inj h).1.symm) hb
        | y :: before =>
          exact ih (List.cons.inj (List.cons.inj h).2).2 (getLast?_ne_of_cons (getLast?_ne_of_cons hb))
      · rw [stuffAll_cons, stuff_of_ne hd] at h
        exact ih (List.cons.inj h).2 (getLast?_ne_of_cons hb)

end Sys2Proof
end

section

namespace Sys2Proof.Machine

/-! ### The TX stream over steps and runs (R59) -/

@[simp] theorem entryEffect_txStream (inp : Input) (s : State) :
    (entryEffect inp s).txStream = s.txStream ++ txBytes inp := by
  cases inp with
  | event e => exact (rxStep_txStream s e).trans (List.append_nil _).symm
  | wire cc payload => exact (rxRun_txStream s _).trans (List.append_nil _).symm
  | tx => rfl
  | rxReset | hardReset => exact (List.append_nil _).symm

theorem runSteps_txStream (l : List Input) {s : State} (h : s.inputs = l) :
    ∃ t, runSteps l.length s = .next t ∧ t.inputs = [] ∧ t.txStream = s.txStream ++ l.flatMap txBytes := by
  induction l generalizing s with
  | nil => exact ⟨s, rfl, h, (List.append_nil _).symm⟩
  | cons inp l ih =>
    obtain ⟨t, ht, hin, htx⟩ := ih (entryEffect_inputs inp (setInputs l s))
    refine ⟨t, (runSteps_cons _ h).trans ht, hin, ?_⟩
    rw [htx, entryEffect_txStream, setInputs_txStream, List.flatMap_cons, List.append_assoc]

/-! ### The statements -/

/-- Settles O31: the frame of `execEncode_eq`, in the layout of `wire_eq`. -/
theorem encodeEmitsWireFrame : Obligations.EncodeEmitsWireFrame := by
  intro s cc p rest
  constructor
  · have h := execEncode_eq cc p s
    rw [wire_eq] at h
    exact h
  · exact fun h => step_instr h rfl

/-- Settles O33: the bytes are the wire frame; its length counts the `10` once more, and its tail is stuffed. -/
theorem encodeLengthLaw : Obligations.EncodeLengthLaw := by
  intro s cc p
  have hlen : (wire cc p).length = 4 + p.length + (cc :: p).count 0x10#8 := length_wire cc p
  have hcount : (cc :: p).count 0x10#8 ≤ p.length + 1 := List.count_le_length
  refine ⟨wire cc p, execEncode_eq cc p s, hlen, by omega, by omega, ?_, ?_, rfl, ⟨_, rfl⟩, ?_⟩
  · rw [← List.count_eq_zero]
    omega
  · have hall : (cc :: p).count 0x10#8 = p.length + 1 ↔ ∀ b ∈ cc :: p, 0x10#8 = b := List.count_eq_length
    simp only [eq_comm (b := 0x10#8)]
    rw [← hall]
    omega
  · intro before after n h _ hb ha
    rw [wire_eq] at h
    exact maximalRun_parity h hb ha

/-- Settles O34: entry by entry, `entryEffect_txStream`. -/
theorem txStreamIsCommandBytesInOrder : Obligations.TxStreamIsCommandBytesInOrder :=
  fun s => runSteps_txStream s.inputs rfl

/-- Settles O32: one `TxPut` each, by instruction and by step. -/
theorem statusBytesAreEmitted : Obligations.StatusBytesAreEmitted :=
  fun _ _ => ⟨rfl, rfl, step_ack, step_nak⟩

end Sys2Proof.Machine
end

/-! ### The deframer: timeouts among the bytes, the round trip, and the byte rows of HUNT, BODY and ESC (R64 to R76) -/

section

namespace Sys2Proof.Machine

/-! ### The bytes among events -/

theorem bytesOf_byte (b : Byte) (es : List RxEvent) : bytesOf (.byte b :: es) = b :: bytesOf es := rfl

theorem bytesOf_timeout (es : List RxEvent) : bytesOf (.timeout :: es) = bytesOf es := rfl

/-- Events that have a byte are silence, the first byte, and the events behind it. -/
theorem exists_eq_silence_append {es : List RxEvent} {b : Byte} {bs : List Byte} (h : bytesOf es = b :: bs) :
    ∃ n fs, es = List.replicate n .timeout ++ .byte b :: fs ∧ bytesOf fs = bs := by
  induction es with
  | nil => cases h
  | cons e es ih =>
    cases e with
    | byte c => cases h; exact ⟨0, es, rfl, rfl⟩
    | timeout =>
      obtain ⟨n, fs, rfl, hfs⟩ := ih h
      exact ⟨n + 1, fs, rfl, hfs⟩

/-! ### Runs of RX steps and the record of outcomes -/

theorem rxRun_cons (e : RxEvent) (es : List RxEvent) (s : State) : rxRun (e :: es) s = rxRun es (rxStep e s) := rfl

theorem rxRun_withOutcomes (es : List RxEvent) (s : State) (l : List RxOut) :
    rxRun es { s with outcomes := l } = { rxRun es s with outcomes := l ++ rxOutputs es s } := by
  induction es generalizing s l with
  | nil => simp [rxRun, rxOutputs]
  | cons e es ih =>
    rw [rxRun, rxStep_withOutcomes, ih, rxRun, rxOutputs, List.append_assoc]
    rfl

theorem rxOutputs_withOutcomes (es : List RxEvent) (s : State) (l : List RxOut) :
    rxOutputs es { s with outcomes := l } = rxOutputs es s :=
  SameReceiver.rxOutputs_eq (s := { s with outcomes := l }) (u := s) ⟨rfl, rfl⟩ es

theorem rxOutputs_eq_of_outcomes {es : List RxEvent} {s : State} {l : List RxOut}
    (h : (rxRun es s).outcomes = s.outcomes ++ l) : rxOutputs es s = l :=
  List.append_cancel_left ((rxRun_outcomes es s).symm.trans h)

/-! ### Silence (R94, R95) -/

/-- R94, R95, R131: silence keeps every register, but for the end of the status-byte window in CLOSED. -/
theorem rxRun_silence (n : Nat) (s : State) :
    rxRun (List.replicate n .timeout) s =
      { s with rxState := if s.rxState = .closed ∧ 0 < n then .hunt else s.rxState,
               outcomes := s.outcomes ++ List.replicate n .timeout } := by
  induction n generalizing s with
  | zero => simp [rxRun]
  | succ n ih =>
    rw [List.replicate_succ, rxRun]
    by_cases h : s.rxState = .closed
    · rw [rxStep_timeout_closed s h, ih]
      simp [h, out, goto, List.replicate_succ]
    · rw [rxStep_timeout s h, ih]
      simp [h, out, List.replicate_succ]

/-! ### Timeouts between quiet bytes -/

theorem appendOrOverrun_not_closed (s : State) (v b : Byte) : (appendOrOverrun v b s).rxState ≠ .closed := by
  cases h : hasRoom s.cfg s.rxBuf.length
  · rw [appendOrOverrun_full s h]
    exact nofun
  · rw [appendOrOverrun_room s h]
    exact nofun

/-- R71: the step into CLOSED outputs a frame, so a byte with the output `None` does not lead there. -/
theorem RxMove.not_closed_of_output_none {s t : State} {b : Byte} (m : RxMove s (.byte b) t)
    (ho : t.outcomes = s.outcomes ++ [.none]) : t.rxState ≠ .closed := by
  cases m with
  | escEtx => simp at ho
  | bodyLit | escDle => exact appendOrOverrun_not_closed s _ _
  | huntDrop h => simp [h]
  | restart | accept | busReset | illegal | bodyDle | escReject | escIgnore | closeWindow | nak => exact nofun

/-- R76, R94: outside CLOSED, timeouts before, between and after bytes with the output `None` add their own outputs and
nothing else. -/
theorem rxRun_quiet {s : State} {es : List RxEvent} (h : s.rxState ≠ .closed)
    (hq : ∀ o ∈ rxOutputs (byteEvents (bytesOf es)) s, o = .none) :
    rxRun es s = { rxRun (byteEvents (bytesOf es)) s with outcomes := s.outcomes ++ es.map quietOutput } := by
  induction es generalizing s with
  | nil => simp [rxRun, bytesOf, byteEvents]
  | cons e es ih =>
    cases e with
    | timeout =>
      rw [bytesOf_timeout] at hq ⊢
      have hq' : ∀ o ∈ rxOutputs (byteEvents (bytesOf es)) (out .timeout s), o = .none := by
        rwa [out, rxOutputs_withOutcomes]
      rw [rxRun, rxStep_timeout s h, ih (s := out .timeout s) h hq', out, rxRun_withOutcomes]
      simp [quietOutput]
    | byte b =>
      obtain ⟨ho, hq⟩ := List.forall_mem_cons.mp hq
      have hout : (rxStep (.byte b) s).outcomes = s.outcomes ++ [.none] := by rw [rxStep_outcomes, ho]
      have hs : (rxStep (.byte b) s).rxState ≠ .closed := (rxStep_move s _).not_closed_of_output_none hout
      rw [rxRun_cons, ih hs hq, hout, bytesOf_byte, rxRun_byteEvents_cons]
      simp [quietOutput]

/-- `rxRun_quiet` where the run of the bytes is known as a whole state. -/
theorem rxRun_quiet_of_eq {s t : State} {es : List RxEvent} {n : Nat} (h : s.rxState ≠ .closed)
    (ht : rxRun (byteEvents (bytesOf es)) s = { t with outcomes := s.outcomes ++ List.replicate n .none }) :
    rxRun es s = { t with outcomes := s.outcomes ++ es.map quietOutput } := by
  have hout := rxOutputs_eq_of_outcomes (congrArg State.outcomes ht)
  rw [rxRun_quiet h (hout ▸ fun _ => List.eq_of_mem_replicate), ht]

theorem rxRun_hunt_quiet {s : State} {es : List RxEvent} (h : s.rxState = .hunt) (hes : STX ∉ bytesOf es) :
    rxRun es s = { s with outcomes := s.outcomes ++ es.map quietOutput } :=
  rxRun_quiet_of_eq (by simp [h]) (rxRun_hunt_drop h hes)

/-! ### The round trip (R76) -/

/-- From the control code to the `DLE` of the end delimiter: the frame is in the registers, and only the `ETX` is
missing. -/
theorem rxRun_ctrl_untilEtx {s : State} {cc : Byte} {p : List Byte} (h : s.rxState = .ctrl) (hc : cc ∈ deliverable)
    (hp : STX ∉ p) (hm : withinMax s.cfg (s.rxBuf.length + p.length) = true) :
    rxRun (byteEvents (cc :: (stuffAll p ++ [DLE]))) s =
      { s with rxState := .esc, rxCc := cc, rxBuf := s.rxBuf ++ p,
               outcomes := s.outcomes ++ List.replicate ((stuffAll p).length + 2) .none } := by
  rw [rxRun_byteEvents_cons, rxStep_ctrl_accepted h hc, rxRun_byteEvents_append,
    rxRun_body_stuffAll (s := acceptCode cc s) rfl hp hm, rxRun_byteEvents_cons, rxStep_body_dle rfl]
  rw [List.replicate_succ', List.replicate_succ, acceptCode_eq]
  simp [byteEvents, rxRun, out, goto]

theorem stuff_of_deliverable {cc : Byte} (h : cc ∈ deliverable) : stuff cc = [cc] := by
  rcases mem_deliverable_iff.mp h with rfl | rfl | rfl <;> rfl

theorem eq_of_append_etx_eq_wire {cc : Byte} {p bs : List Byte} (hc : cc ∈ deliverable)
    (h : bs ++ [ETX] = wire cc p) : bs = STX :: cc :: (stuffAll p ++ [DLE]) := by
  have hw : wire cc p = (STX :: cc :: (stuffAll p ++ [DLE])) ++ [ETX] := by
    simp [wire_eq, stuff_of_deliverable hc]
  exact List.append_cancel_right (h.trans hw)

/-- R71, R76: the frame behind its `STX`, with timeouts in it: no byte but the last has an output other than `None`. -/
theorem rxRun_ctrl_frame {s : State} {cc : Byte} {p : List Byte} {fs : List RxEvent} (h : s.rxState = .ctrl)
    (hc : cc ∈ deliverable) (hp : STX ∉ p) (hm : withinMax s.cfg (s.rxBuf.length + p.length) = true)
    (hfs : bytesOf fs = cc :: (stuffAll p ++ [DLE])) :
    rxRun (fs ++ [.byte ETX]) s =
      { s with rxState := .closed, rxCc := cc, rxBuf := s.rxBuf ++ p,
               outcomes := s.outcomes ++ fs.map quietOutput ++ [.frame cc (s.rxBuf ++ p)] } := by
  have hquiet : rxRun fs s = { s with rxState := .esc, rxCc := cc, rxBuf := s.rxBuf ++ p,
                                      outcomes := s.outcomes ++ fs.map quietOutput } :=
    rxRun_quiet_of_eq (t := { s with rxState := .esc, rxCc := cc, rxBuf := s.rxBuf ++ p }) (by simp [h])
      (hfs ▸ rxRun_ctrl_untilEtx h hc hp hm)
  rw [rxRun_append, hquiet, rxRun_cons, rxStep_esc_etx rfl]
  rfl

/-- R66, R76: a wire frame with timeouts in it, met outside ESC. Silence before the `STX` does not matter to the frame
start. -/
theorem rxRun_encodedFrame {s : State} {cc : Byte} {p : List Byte} {pre : List RxEvent} (h : s.rxState ≠ .esc)
    (hc : cc ∈ deliverable) (hp : STX ∉ p) (hm : withinMax s.cfg p.length = true)
    (hpre : bytesOf pre ++ [ETX] = wire cc p) :
    rxRun (pre ++ [.byte ETX]) s =
      { s with rxState := .closed, rxCc := cc, rxBuf := p, rxRejected := false,
               outcomes := s.outcomes ++ pre.map quietOutput ++ [.frame cc p] } := by
  obtain ⟨n, fs, rfl, hfs⟩ := exists_eq_silence_append (eq_of_append_etx_eq_wire hc hpre)
  have hesc : (rxRun (List.replicate n .timeout) s).rxState ≠ .esc := by
    rw [rxRun_silence]
    dsimp only
    split
    · exact nofun
    · exact h
  have hroom : withinMax (rxRun (List.replicate n .timeout) s).cfg (0 + p.length) = true := by
    rwa [rxRun_cfg, Nat.zero_add]
  rw [List.append_assoc, rxRun_append, List.cons_append, rxRun_cons, rxStep_stx hesc,
    rxRun_ctrl_frame (s := startFrame _) rfl hc hp hroom hfs, startFrame_eq, rxRun_silence]
  simp [quietOutput]

/-- R95: the frame is closed, so silence behind it ends the status-byte window. -/
theorem rxRun_encodedFrame_silence {s : State} {cc : Byte} {p : List Byte} {pre : List RxEvent} (k : Nat)
    (h : s.rxState ≠ .esc) (hc : cc ∈ deliverable) (hp : STX ∉ p) (hm : withinMax s.cfg p.length = true)
    (hpre : bytesOf pre ++ [ETX] = wire cc p) :
    rxRun (pre ++ [.byte ETX] ++ List.replicate k .timeout) s =
      { s with rxState := if k = 0 then .closed else .hunt, rxCc := cc, rxBuf := p, rxRejected := false,
               outcomes := s.outcomes ++ pre.map quietOutput ++ [.frame cc p] ++ List.replicate k .timeout } := by
  rw [rxRun_append, rxRun_encodedFrame h hc hp hm hpre, rxRun_silence]
  cases k <;> simp

/-! ### One step on a byte -/

theorem decodeByte_of_encode {st : RxState} {b : Byte} {i : Instr} (hw : i.wellFormed = true)
    (hc : encode i = .byte st b) : decodeByte st b = i := by
  have h := decodeCode_encode hw
  rw [hc] at h
  exact Except.ok.inj h

/-- R46, R63: the step runs the instruction whose code is the byte in the present state. -/
theorem step_eq_exec_of_encode {s : State} {st : RxState} {b : Byte} {rest : List Input} {i : Instr}
    (h : s.atByte st b rest) (hw : i.wellFormed = true) (hc : encode i = .byte st b) :
    step s = exec i (setInputs rest s) := by
  obtain ⟨rfl, hin⟩ := h
  exact step_instr hin (congrArg some (decodeByte_of_encode hw hc))

/-! ### The unknown escape, policy by policy (R75) -/

theorem exec_escOther_reject {s : State} (h : s.cfg.escPolicy = .reject) (b : Byte) :
    exec (.escOther b) s = .next (raiseDecodeError .unknownEscape b s) := by
  simp only [exec, execEscOther, escOther, h]

theorem exec_escOther_ignore {s : State} (h : s.cfg.escPolicy = .ignore) (b : Byte) :
    exec (.escOther b) s = .next (out .none (goto .body s)) := by
  simp only [exec, execEscOther, escOther, h]

/-! ### The statements -/

/-- Settles O41: the bytes are those of `execEncode_eq`, and the run over them is `rxRun_encodedFrame_silence`. -/
theorem encodedFrameIsReceived : Obligations.EncodedFrameIsReceived := by
  intro u cc p
  refine ⟨wire cc p, execEncode_eq cc p u, wire_eq cc p, ?_⟩
  intro s pre k rest hc hp hm hs hpre hin
  have hlen : pre.length + 1 + k = (pre ++ [RxEvent.byte ETX] ++ List.replicate k RxEvent.timeout).length := by
    simp [Nat.add_assoc, Nat.add_comm 1]
  have hrun := rxRun_encodedFrame_silence (s := setInputs rest s) k hs hc hp hm hpre
  rw [hlen]
  exact (run_events _ s hin).trans (congrArg Host.Outcome.next hrun)

/-- Settles O42: HUNT drops the bytes, all with the output `None`, and timeouts between them do not matter. -/
theorem huntDropsUntilStx : Obligations.HuntDropsUntilStx := fun s es rest h hes hin =>
  (run_events es s hin).trans (congrArg Host.Outcome.next (rxRun_hunt_quiet (s := setInputs rest s) h hes))

/-- Settles O12: the four instructions are `startFrame`, and so is the byte in the four states other than ESC. -/
theorem stxStartsFrame : Obligations.StxStartsFrame := by
  intro s
  constructor
  · intro i hi
    simp only [List.mem_cons, List.not_mem_nil, or_false] at hi
    rcases hi with rfl | rfl | rfl | rfl <;> exact congrArg Host.Outcome.next (startFrame_eq s)
  · rintro st rest hst ⟨rfl, hin⟩
    have hesc : s.rxState ≠ .esc := fun h => by simp [h] at hst
    exact (step_event hin).trans (congrArg Host.Outcome.next (rxStep_stx (s := setInputs rest s) hesc))

/-- Settles O13. -/
theorem huntDropsOtherByte : Obligations.HuntDropsOtherByte := fun _ _ _ =>
  ⟨rfl, fun h hb => step_eq_exec_of_encode h (wellFormed_huntOther.mpr hb) rfl⟩

/-- Settles O17. -/
theorem bodyDleOpensEscape : Obligations.BodyDleOpensEscape := fun _ _ =>
  ⟨rfl, fun h => step_eq_exec_of_encode (i := .bodyDle) h rfl rfl⟩

/-- Settles O19: the append of `bodyLit`, with room and without. -/
theorem bodyLiteralIsAppended : Obligations.BodyLiteralIsAppended := by
  intro s b rest hs
  refine ⟨fun hr => ?_, fun hr => ?_, fun hin hb hd => ?_⟩
  · have happend := appendOrOverrun_room s (v := b) (b := b) hr
    rw [← hs] at happend
    exact congrArg Host.Outcome.next happend
  · exact congrArg Host.Outcome.next (appendOrOverrun_full s hr)
  · exact step_eq_exec_of_encode ⟨hs, hin⟩ (wellFormed_bodyLit.mpr ⟨hb, hd⟩) rfl

/-- Settles O20: the append of `escDle`, with room and without. -/
theorem escapedDleIsOneLiteral : Obligations.EscapedDleIsOneLiteral := fun s _ =>
  ⟨fun hr => congrArg Host.Outcome.next (appendOrOverrun_room s hr),
    fun hr => congrArg Host.Outcome.next (appendOrOverrun_full s hr),
    fun h => step_eq_exec_of_encode (i := .escDle) h rfl rfl⟩

/-- Settles O21. -/
theorem escapedEtxDeliversFrame : Obligations.EscapedEtxDeliversFrame := fun _ _ =>
  ⟨rfl, fun h => step_eq_exec_of_encode (i := .escEtx) h rfl rfl⟩

/-- Settles O22, policy by policy. -/
theorem unknownEscapeFollowsPolicy : Obligations.UnknownEscapeFollowsPolicy := fun _ b _ =>
  ⟨fun h => exec_escOther_reject h b, fun h => exec_escOther_ignore h b,
    fun h hd he => step_eq_exec_of_encode h (wellFormed_escOther.mpr ⟨hd, he⟩) rfl⟩

end Sys2Proof.Machine
end

/-! ### The control-code validator: the classes of a code, the rows of CTRL, and what reaches the host (R72, R77, R78,
R80 to R84, R88) -/

section

namespace Sys2Proof.Machine

/-! ### Which steps deliver a frame (R71) -/

theorem deliveredValid_iff {s : State} :
    s.deliveredValid ↔ ∀ cc p, .frame cc p ∈ s.outcomes → validFrame s.cfg cc p := by
  refine ⟨fun h cc p hf => h _ hf, fun h o ho => ?_⟩
  cases o with
  | frame cc p => exact h cc p ho
  | none | busReset | decodeError | timeout => trivial

theorem frame_mem_of_appendOrOverrun {s : State} {v b cc : Byte} {p : List Byte}
    (h : .frame cc p ∈ (appendOrOverrun v b s).outcomes) : .frame cc p ∈ s.outcomes := by
  cases hr : hasRoom s.cfg s.rxBuf.length with
  | true => simpa [appendOrOverrun_room s hr] using h
  | false => simpa [appendOrOverrun_full s hr] using h

/-- R71: the `ETX` of an escape pair is the one event that delivers a frame, and the frame is what the registers
hold. -/
theorem RxMove.frame_mem {s t : State} {e : RxEvent} {cc : Byte} {p : List Byte} (m : RxMove s e t)
    (h : .frame cc p ∈ t.outcomes) :
    .frame cc p ∈ s.outcomes ∨ s.rxState = .esc ∧ cc = s.rxCc ∧ p = s.rxBuf := by
  cases m with
  | escEtx hesc =>
    refine (List.mem_append.mp h).imp_right fun hf => ?_
    cases List.mem_singleton.mp hf
    exact ⟨hesc, rfl, rfl⟩
  | bodyLit | escDle => exact .inl (frame_mem_of_appendOrOverrun h)
  | restart => exact .inl (by simpa [startFrame_eq] using h)
  | accept => exact .inl (by simpa [acceptCode_eq] using h)
  | busReset => exact .inl (by simpa [raiseBusReset, raiseOutcome_eq] using h)
  | illegal | escReject => exact .inl (by simpa [raiseDecodeError, raiseOutcome_eq] using h)
  | closeWindow | nak => exact .inl (by simpa [closeWindow_eq] using h)
  | huntDrop | bodyDle | escIgnore | silence | silenceClosed => exact .inl (by simpa using h)

/-! ### From a legal form every delivered frame is valid (R72, R88) -/

theorem rxStep_deliveredValid {s : State} (e : RxEvent) (hs : s.legal) (hd : s.deliveredValid) :
    (rxStep e s).deliveredValid := by
  rw [deliveredValid_iff] at hd ⊢
  intro cc p hf
  rw [rxStep_cfg]
  rcases (rxStep_move s e).frame_mem hf with hold | ⟨hesc, rfl, rfl⟩
  · exact hd cc p hold
  · obtain ⟨hvalid, -⟩ := hs.holdsFrame_of_inFrame (.inr (.inl hesc))
    exact hvalid

theorem rxRun_deliveredValid {s : State} (es : List RxEvent) (hs : s.legal) (hd : s.deliveredValid) :
    (rxRun es s).deliveredValid := by
  induction es generalizing s with
  | nil => exact hd
  | cons e es ih => exact ih (rxStep_legal e hs) (rxStep_deliveredValid e hs hd)

theorem entryEffect_deliveredValid {s : State} (inp : Input) (hs : s.legal) (hd : s.deliveredValid) :
    (entryEffect inp s).deliveredValid := by
  cases inp with
  | event e => exact rxStep_deliveredValid e hs hd
  | wire cc payload => exact rxRun_deliveredValid _ hs hd
  | tx | rxReset | hardReset => exact hd

theorem step_deliveredValid {s t : State} (hs : s.legal) (hd : s.deliveredValid) (ht : step s = .next t) :
    t.deliveredValid := by
  cases h : s.inputs with
  | nil =>
    cases (step_idle h).symm.trans ht
    exact hd
  | cons inp rest =>
    cases (step_eq_entryEffect h).symm.trans ht
    exact entryEffect_deliveredValid (s := setInputs rest s) inp hs hd

/-- R18: the cleared register holds `0x00`, which is a deliverable code as well. -/
theorem State.legal.rxCc_mem_deliverable {s : State} (hs : s.legal) : s.rxCc ∈ deliverable := by
  have of_cleared : s.cleared → s.rxCc ∈ deliverable := fun ⟨hcc, _, _⟩ => by simp [hcc, deliverable]
  cases h : s.rxState with
  | hunt =>
    obtain ⟨hunt, -, -⟩ := hs
    exact (hunt h).elim of_cleared fun ⟨hcc, _, _⟩ => hcc
  | ctrl => exact of_cleared (hs.cleared_of_ctrl h)
  | body | esc | closed =>
    obtain ⟨⟨hcc, -, -⟩, -⟩ := hs.holdsFrame_of_inFrame (by simp [h])
    exact hcc

/-! ### The classes of a control code (R77, R78) -/

theorem mem_accepted_iff {b : Byte} : b ∈ accepted ↔ b = MDB_RESET ∨ b ∈ deliverable := by
  simp [accepted, mem_deliverable_iff, or_left_comm]

theorem mdbReset_not_mem_deliverable : MDB_RESET ∉ deliverable := by decide

theorem ccClass_eq (b : Byte) :
    ccClass b = if b = MDB_RESET then .reset else if b ∈ deliverable then .normal else .illegal := by
  simp only [ccClass, mem_deliverable_iff]

theorem ccClass_eq_reset_iff {b : Byte} : ccClass b = .reset ↔ b = MDB_RESET := by
  rw [ccClass_eq]
  split
  · simp [*]
  · split <;> simp [*]

theorem ccClass_eq_normal_iff {b : Byte} : ccClass b = .normal ↔ b ∈ deliverable := by
  rw [ccClass_eq]
  split
  · next h => simp [h, mdbReset_not_mem_deliverable]
  · split <;> simp [*]

theorem ccClass_eq_illegal_iff {b : Byte} : ccClass b = .illegal ↔ b ∉ accepted := by
  rw [ccClass_eq, mem_accepted_iff]
  split
  · simp [*]
  · split <;> simp [*]

theorem filter_accepted_perm :
    ((List.range 256).filter fun n => BitVec.ofNat 8 n ∈ accepted).Perm (accepted.map BitVec.toNat) := by
  rw [List.perm_ext_iff_of_nodup (List.nodup_range.filter _) (by decide)]
  intro n
  simp only [List.mem_filter, List.mem_range, decide_eq_true_eq, List.mem_map]
  constructor
  · rintro ⟨hn, hacc⟩
    exact ⟨_, hacc, BitVec.toNat_ofNat n 8 ▸ Nat.mod_eq_of_lt hn⟩
  · rintro ⟨b, hb, rfl⟩
    exact ⟨b.isLt, by rwa [BitVec.ofNat_toNat, BitVec.setWidth_eq]⟩

/-- Of the 256 values the four accepted codes are not illegal. -/
theorem length_filter_illegal :
    ((List.range 256).filter fun n => ccClass (BitVec.ofNat 8 n) = .illegal).length = 252 := by
  have hall : (List.range 256).length = 256 := List.length_range
  have hfour : ((List.range 256).filter fun n => BitVec.ofNat 8 n ∈ accepted).length = 4 :=
    filter_accepted_perm.length_eq
  simp only [ccClass_eq_illegal_iff, decide_not]
  generalize List.range 256 = l at hall hfour ⊢
  have hsplit := l.length_eq_countP_add_countP fun n => decide (BitVec.ofNat 8 n ∈ accepted)
  simp only [List.countP_eq_length_filter, Bool.not_eq_true, decide_eq_false_iff_not, decide_not] at hsplit
  omega

/-! ### The instruction a byte decodes to (R46): the well-formed one that encodes to it -/

theorem decodeByte_eq_iff {st : RxState} {b : Byte} {i : Instr} :
    decodeByte st b = i ↔ i.wellFormed = true ∧ encode i = .byte st b := by
  constructor
  · rintro rfl
    exact ⟨wellFormed_decodeByte st b, encode_decodeByte st b⟩
  · rintro ⟨hw, hc⟩
    exact decodeByte_of_encode hw hc

theorem wellFormed_ctrlIllegal_iff_not_accepted {b : Byte} (hb : b ≠ STX) :
    (Instr.ctrlIllegal b).wellFormed = true ↔ b ∉ accepted := by
  rw [wellFormed_ctrlIllegal, mem_accepted_iff, mem_deliverable_iff]
  simp only [not_or]
  constructor
  · rintro ⟨-, hd, hi, hg, hm⟩
    exact ⟨hm, hd, hi, hg⟩
  · rintro ⟨hm, hd, hi, hg⟩
    exact ⟨hb, hd, hi, hg, hm⟩

theorem decodeByte_ctrl_mdbReset_iff {b : Byte} : decodeByte .ctrl b = .ctrlMdbReset ↔ b = MDB_RESET := by
  rw [decodeByte_eq_iff]
  simp [Instr.wellFormed, encode, eq_comm]

theorem decodeByte_ctrl_illegal_iff {b : Byte} (hb : b ≠ STX) :
    decodeByte .ctrl b = .ctrlIllegal b ↔ b ∉ accepted := by
  rw [decodeByte_eq_iff, wellFormed_ctrlIllegal_iff_not_accepted hb]
  simp [encode]

theorem decodeByte_ctrl_mem_iff {b : Byte} :
    decodeByte .ctrl b ∈ [.ctrlData, .ctrlStatusinfo, .ctrlGsmStatusinfo] ↔ b ∈ deliverable := by
  simp only [List.mem_cons, List.not_mem_nil, or_false, decodeByte_eq_iff, mem_deliverable_iff]
  simp [Instr.wellFormed, encode, @eq_comm _ b]

/-! ### The statements -/

/-- Settles O59: only ESC delivers, what a legal ESC holds is a valid frame, and a legal form has a deliverable code in
`rx_cc`. -/
theorem deliveredFramesAreValid : Obligations.DeliveredFramesAreValid := by
  intro s t hs hd ht
  refine ⟨step_deliveredValid hs hd ht, fun hcc => ?_⟩
  have hmem : t.rxCc ∈ deliverable := (step_legal hs ht).rxCc_mem_deliverable
  rw [hcc] at hmem
  exact mdbReset_not_mem_deliverable hmem

/-- Settles O8, class by class and instruction by instruction. -/
theorem controlCodeClassifier : Obligations.ControlCodeClassifier := by
  refine ⟨fun b => ?_, fun _ => ccClass_eq_reset_iff, fun b => ?_, fun _ => ccClass_eq_illegal_iff,
    length_filter_illegal, fun b hb => ⟨?_, ?_, ?_⟩⟩
  · simp [accepted, DATA, STATUSINFO, MDB_RESET, GSM_STATUSINFO]
  · simp [ccClass_eq_normal_iff, deliverable]
  · rw [decodeByte_ctrl_mdbReset_iff, ccClass_eq_reset_iff]
  · rw [decodeByte_ctrl_illegal_iff hb, ccClass_eq_illegal_iff]
  · rw [decodeByte_ctrl_mem_iff, ccClass_eq_normal_iff]

/-- Settles O14, row by row: each is `acceptCode` of its code. -/
theorem acceptedCodeOpensBody : Obligations.AcceptedCodeOpensBody := by
  intro s rest r hr
  simp only [List.mem_cons, List.not_mem_nil, or_false] at hr
  rcases hr with rfl | rfl | rfl
  · exact ⟨rfl, fun h => step_eq_exec_of_encode (i := .ctrlData) h rfl rfl⟩
  · exact ⟨rfl, fun h => step_eq_exec_of_encode (i := .ctrlStatusinfo) h rfl rfl⟩
  · exact ⟨rfl, fun h => step_eq_exec_of_encode (i := .ctrlGsmStatusinfo) h rfl rfl⟩

/-- Settles O15. -/
theorem mdbResetRaisesBusReset : Obligations.MdbResetRaisesBusReset := fun _ _ =>
  ⟨rfl, fun h => step_eq_exec_of_encode (i := .ctrlMdbReset) h rfl rfl⟩

/-- Settles O16: a byte that is neither `STX` nor accepted is the operand of a well-formed `CTRL.illegal`. -/
theorem illegalCodeRaisesError : Obligations.IllegalCodeRaisesError := by
  refine fun s b rest => ⟨rfl, fun h hb => ?_⟩
  obtain ⟨hstx, hacc⟩ := List.ne_and_not_mem_of_not_mem_cons hb
  have hw : (Instr.ctrlIllegal b).wellFormed = true :=
    (wellFormed_ctrlIllegal_iff_not_accepted hstx).mpr hacc
  exact step_eq_exec_of_encode h hw rfl

end Sys2Proof.Machine
end

/-! ### State CLOSED, the `Timeout` event, `RxReset`, the `DECODE` call and the next-state table (R89 to R102) -/

section

namespace Sys2Proof.Machine

/-! ### The byte steps of CLOSED -/

theorem rxStep_closed_nak {s : State} (h : s.rxState = .closed) :
    rxStep (.byte NAK) s = closeWindow (setRejected s) :=
  rxStep_byte_of_encode (i := .closedNak) rfl (by rw [h]; rfl)

theorem rxStep_closed_ack {s : State} (h : s.rxState = .closed) : rxStep (.byte ACK) s = closeWindow s :=
  rxStep_byte_of_encode (i := .closedAck) rfl (by rw [h]; rfl)

theorem rxStep_closed_other {s : State} {b : Byte} (h : s.rxState = .closed)
    (hw : (Instr.closedOther b).wellFormed = true) : rxStep (.byte b) s = closeWindow s :=
  rxStep_byte_of_encode hw (by rw [h]; rfl)

/-- R89, R90, R92: the status byte, whichever it is, ends the window and keeps the frame; `NAK` marks it. -/
theorem hostRead_rxStep_closed {s : State} {b : Byte} (h : s.rxState = .closed) (hb : b ≠ STX) :
    hostRead (rxStep (.byte b) s) = ⟨.hunt, s.rxCc, s.rxBuf, s.rxRejected || b == NAK⟩ := by
  by_cases hn : b = NAK
  · rw [hn, rxStep_closed_nak h]
    simp [hostRead, closeWindow_eq]
  · have hclose : rxStep (.byte b) s = closeWindow s := by
      by_cases ha : b = ACK
      · rw [ha, rxStep_closed_ack h]
      · exact rxStep_closed_other h (wellFormed_closedOther.mpr ⟨ha, hn, hb⟩)
    rw [hclose]
    simp [hostRead, closeWindow_eq, hn]

/-! ### What an output says of the step that gave it (R103) -/

/-- What holds of the event `e` and of the state `t` after its step when the output is `o`
(`RxMove.reportHolds`). -/
def reportHolds (e : RxEvent) (t : State) : RxOut → Prop
  | .none => True
  | .frame cc p => t.rxState = .closed ∧ t.rxCc = cc ∧ t.rxBuf = p
  | .busReset => t.rxState = .hunt
  | .decodeError _ _ => t.rxState = .hunt
  | .timeout => e = .timeout

theorem reportHolds_appendOrOverrun (s : State) (e : RxEvent) (v b : Byte) {o : RxOut}
    (ho : (appendOrOverrun v b s).outcomes = s.outcomes ++ [o]) : reportHolds e (appendOrOverrun v b s) o := by
  cases hr : hasRoom s.cfg s.rxBuf.length with
  | true =>
    rw [appendOrOverrun_room s hr] at ho ⊢
    cases List.append_cancel_left ho
    trivial
  | false =>
    rw [appendOrOverrun_full s hr] at ho ⊢
    cases List.append_cancel_left ho
    rfl

theorem RxMove.reportHolds {s t : State} {e : RxEvent} {o : RxOut} (m : RxMove s e t)
    (ho : t.outcomes = s.outcomes ++ [o]) : reportHolds e t o := by
  cases m with
  | bodyLit | escDle => exact reportHolds_appendOrOverrun s _ _ _ ho
  | restart | huntDrop | accept | bodyDle | escIgnore | closeWindow | nak =>
    cases List.append_cancel_left ho
    trivial
  | busReset | illegal | escReject | silence | silenceClosed =>
    cases List.append_cancel_left ho
    rfl
  | escEtx =>
    cases List.append_cancel_left ho
    exact ⟨rfl, rfl, rfl⟩

theorem reportHolds_rxOutput (e : RxEvent) (s : State) : reportHolds e (rxStep e s) (rxOutput e s) :=
  (rxStep_move s e).reportHolds (rxStep_outcomes s e)

theorem rxOutput_timeout (s : State) : rxOutput .timeout s = .timeout := by
  by_cases h : s.rxState = .closed
  · simp [rxOutput, rxStep_timeout_closed s h]
  · simp [rxOutput, rxStep_timeout s h]

theorem timeout_mem_rxOutputs {es : List RxEvent} (s : State) (h : .timeout ∈ es) :
    .timeout ∈ rxOutputs es s := by
  induction es generalizing s with
  | nil => exact absurd h List.not_mem_nil
  | cons e es ih =>
    rw [rxOutputs, List.mem_cons]
    rcases List.mem_cons.mp h with rfl | h
    · exact .inl (rxOutput_timeout s).symm
    · exact .inr (ih _ h)

/-! ### The `DECODE` call (R97, R98) -/

/-- A run over `es` has nothing to report when each of its outputs is `None`. -/
theorem rxRun_outcomes_eq_none_iff {es : List RxEvent} {s : State} :
    (rxRun es s).outcomes = s.outcomes ++ List.replicate es.length .none ↔ ∀ o ∈ rxOutputs es s, o = .none := by
  rw [rxRun_outcomes, List.append_cancel_left_eq, List.eq_replicate_iff, length_rxOutputs]
  exact and_iff_right rfl

/-- R97: an event without an outcome is passed over. -/
theorem decodeCall_cons_none {e : RxEvent} {s : State} (es : List RxEvent) (h : rxOutput e s = .none) :
    decodeCall (e :: es) s = decodeCall es (rxStep e s) :=
  if_pos h

/-- R97: the first outcome is returned, and nothing behind it is read. -/
theorem decodeCall_cons_report {e : RxEvent} {s : State} (es : List RxEvent) (h : rxOutput e s ≠ .none) :
    decodeCall (e :: es) s = .returned (rxOutput e s) es (rxStep e s) :=
  if_neg h

theorem decodeCall_append {pre : List RxEvent} {s : State} (es : List RxEvent)
    (h : ∀ o ∈ rxOutputs pre s, o = .none) : decodeCall (pre ++ es) s = decodeCall es (rxRun pre s) := by
  induction pre generalizing s with
  | nil => rfl
  | cons e pre ih =>
    obtain ⟨he, hpre⟩ := List.forall_mem_cons.mp h
    exact (decodeCall_cons_none (pre ++ es) he).trans (ih hpre)

theorem decodeCall_quiet {es : List RxEvent} {s : State} (h : ∀ o ∈ rxOutputs es s, o = .none) :
    decodeCall es s = .waiting (rxRun es s) := by
  have happ := decodeCall_append [] h
  rwa [List.append_nil] at happ

/-- Events with something to report split at the first that has. -/
theorem exists_first_report {es : List RxEvent} {s : State} (h : ¬∀ o ∈ rxOutputs es s, o = .none) :
    ∃ pre e rest, es = pre ++ e :: rest ∧ (∀ o ∈ rxOutputs pre s, o = .none) ∧
      rxOutput e (rxRun pre s) ≠ .none := by
  induction es generalizing s with
  | nil => exact absurd (List.forall_mem_nil _) h
  | cons e es ih =>
    by_cases he : rxOutput e s = .none
    · obtain ⟨pre, f, rest, rfl, hpre, hf⟩ := ih fun hes => h (List.forall_mem_cons.mpr ⟨he, hes⟩)
      exact ⟨e :: pre, f, rest, rfl, List.forall_mem_cons.mpr ⟨he, hpre⟩, hf⟩
    · exact ⟨[], e, es, rfl, List.forall_mem_nil _, he⟩

/-- R97: all that a returned call says. -/
theorem decodeCall_eq_returned_iff {es rest : List RxEvent} {s t : State} {o : RxOut} :
    decodeCall es s = .returned o rest t ↔
      ∃ pre e, es = pre ++ e :: rest ∧ (∀ o ∈ rxOutputs pre s, o = .none) ∧ o ≠ .none ∧
        o = rxOutput e (rxRun pre s) ∧ t = rxStep e (rxRun pre s) := by
  constructor
  · intro h
    by_cases hq : ∀ o ∈ rxOutputs es s, o = .none
    · cases (decodeCall_quiet hq).symm.trans h
    · obtain ⟨pre, e, rest', rfl, hpre, he⟩ := exists_first_report hq
      rw [decodeCall_append _ hpre, decodeCall_cons_report _ he] at h
      cases h
      exact ⟨pre, e, rfl, hpre, he, rfl, rfl⟩
  · rintro ⟨pre, e, rfl, hpre, ho, rfl, rfl⟩
    rw [decodeCall_append _ hpre, decodeCall_cons_report _ ho]

/-- R98: the call returns when some event has an outcome, and only then. -/
theorem decodeCall_returns_iff {es : List RxEvent} {s : State} :
    (∃ o rest t, decodeCall es s = .returned o rest t) ↔ ¬∀ o ∈ rxOutputs es s, o = .none := by
  constructor
  · rintro ⟨o, rest, t, h⟩ hq
    cases (decodeCall_quiet hq).symm.trans h
  · intro h
    obtain ⟨pre, e, rest, rfl, hpre, he⟩ := exists_first_report h
    exact ⟨_, _, _, decodeCall_eq_returned_iff.mpr ⟨pre, e, rfl, hpre, he, rfl, rfl⟩⟩

/-- R65, R99: in HUNT the call passes over every byte before the next `STX`. -/
theorem decodeCall_hunt_drop {s : State} {bs : List Byte} (es : List RxEvent) (h : s.rxState = .hunt)
    (hbs : STX ∉ bs) :
    decodeCall (byteEvents bs ++ es) s =
      decodeCall es { s with outcomes := s.outcomes ++ List.replicate bs.length .none } := by
  have hrun := rxRun_hunt_drop h hbs
  have hquiet : ∀ o ∈ rxOutputs (byteEvents bs) s, o = .none := by
    rw [rxOutputs_eq_of_outcomes (congrArg State.outcomes hrun)]
    exact fun _ => List.eq_of_mem_replicate
  rw [decodeCall_append es hquiet, hrun]

/-! ### The next-state table (R102) -/

theorem appendOrOverrun_rxState (s : State) (v b : Byte) :
    (appendOrOverrun v b s).rxState = if hasRoom s.cfg s.rxBuf.length then .body else .hunt := by
  cases h : hasRoom s.cfg s.rxBuf.length
  · rw [appendOrOverrun_full s h]
    rfl
  · rw [appendOrOverrun_room s h]
    rfl

theorem nextState_stx {st : RxState} (policy : EscPolicy) (room : Bool) (h : st ≠ .esc) :
    nextState policy room st (.byte STX) = .ctrl := by
  cases st with
  | esc => exact absurd rfl h
  | hunt | ctrl | body | closed => rfl

theorem nextState_timeout {st : RxState} (policy : EscPolicy) (room : Bool) (h : st ≠ .closed) :
    nextState policy room st .timeout = st := by
  cases st with
  | closed => exact absurd rfl h
  | hunt | ctrl | body | esc => rfl

/-- Every row of the receiver leads where the table of R102 says. -/
theorem RxMove.rxState {s t : State} {e : RxEvent} (m : RxMove s e t) :
    t.rxState = nextState s.cfg.escPolicy (hasRoom s.cfg s.rxBuf.length) s.rxState e := by
  cases m with
  | restart h => exact (nextState_stx _ _ h).symm
  | silence h => exact (nextState_timeout _ _ h).symm
  | busReset h | bodyDle h | escEtx h | nak h | silenceClosed h =>
    rw [h]
    rfl
  | huntDrop h hb =>
    rw [h]
    exact h.trans (if_neg hb).symm
  | accept h hc =>
    rw [h]
    rcases hc with rfl | rfl | rfl <;> rfl
  | illegal h hb hd hs hg =>
    have hmem := mt mem_deliverable_iff.mp (not_or.mpr ⟨hd, not_or.mpr ⟨hs, hg⟩⟩)
    rw [h]
    exact ((if_neg hb).trans (if_neg hmem)).symm
  | bodyLit h hb hd =>
    rw [h, appendOrOverrun_rxState]
    exact ((if_neg hb).trans (if_neg hd)).symm
  | escDle h =>
    rw [h, appendOrOverrun_rxState]
    rfl
  | escReject h hd he hp | escIgnore h hd he hp =>
    rw [h, hp]
    exact ((if_neg he).trans (if_neg hd)).symm
  | closeWindow h hn hb =>
    rw [h]
    exact (if_neg hb).symm

/-! ### The statements -/

/-- Settles O30: the run over the timeouts is `rxRun_silence`. -/
theorem silenceKeepsPartialFrame : Obligations.SilenceKeepsPartialFrame := by
  intro s n rest h
  have hrun := run_events (List.replicate n .timeout) s h
  rw [List.length_replicate, rxRun_silence] at hrun
  exact hrun

/-- Settles O47: a returned call is `decodeCall_eq_returned_iff`, and the machine's run over the events it read is
`run_events`. -/
theorem decodeCallReturnsFirstOutcome : Obligations.DecodeCallReturnsFirstOutcome := by
  intro es s
  constructor
  · intro o rest t
    rw [decodeCall_eq_returned_iff]
    refine exists_congr fun pre => exists_congr fun e => and_congr_right fun _ => ?_
    rw [← rxRun_outcomes_eq_none_iff, rxRun_append, rxRun_cons, rxRun]
    refine and_congr_right fun hpre => and_congr_right fun _ => ?_
    rw [and_comm]
    refine and_congr_right fun ht => ?_
    rw [ht, rxStep_outcomes, hpre, List.append_cancel_left_eq, List.singleton_inj, eq_comm]
  · intro o rest t later h hin
    obtain ⟨pre, e, rfl, -, -, -, rfl⟩ := decodeCall_eq_returned_iff.mp h
    have hlen : (pre ++ e :: rest).length - rest.length = (pre ++ [e]).length := by
      simp only [List.length_append, List.length_cons, List.length_nil]
      omega
    have hsplit : s.inputs = (pre ++ [e]).map .event ++ (eventInputs rest ++ later) := by
      simpa [eventInputs] using hin
    rw [hlen, runSteps, run_events (pre ++ [e]) s hsplit, rxRun_setInputs, rxRun_append]
    rfl

/-- Settles O48, clause by clause; the bytes `41` are dropped in HUNT. -/
theorem decodeCallReturnsIffSomethingToReport : Obligations.DecodeCallReturnsIffSomethingToReport := by
  intro es s
  refine ⟨?_, fun h => ?_, fun n h => ?_⟩
  · rw [decodeCall_returns_iff, Ne, rxRun_outcomes_eq_none_iff]
  · exact decodeCall_returns_iff.mpr fun hq => nomatch hq _ (timeout_mem_rxOutputs s h)
  · have hdrop := decodeCall_hunt_drop (bs := List.replicate n 0x41#8) [] h (by simp [STX])
    rwa [byteEvents, List.map_replicate, List.append_nil, List.length_replicate] at hdrop

/-- Settles O49, by what the returned output says of the step that gave it. -/
theorem nextDecodeCallContinues : Obligations.NextDecodeCallContinues := by
  intro es s t o rest h
  obtain ⟨pre, e, rfl, -, -, rfl, rfl⟩ := decodeCall_eq_returned_iff.mp h
  have hreport := reportHolds_rxOutput e (rxRun pre s)
  refine ⟨fun cc p ho => ?_, fun ho => ?_, fun ho => ?_⟩
  · rw [ho] at hreport
    obtain ⟨hclosed, rfl, rfl⟩ := hreport
    exact ⟨hclosed, rfl, rfl, fun b hb => hostRead_rxStep_closed hclosed hb⟩
  · rw [ho] at hreport
    obtain rfl : e = .timeout := hreport
    refine ⟨pre, rfl, fun hs => ?_⟩
    rw [rxStep_timeout _ hs]
    rfl
  · have hhunt : (rxStep e (rxRun pre s)).rxState = .hunt := by
      rcases ho with ho | ⟨kind, b, ho⟩ <;> rwa [ho] at hreport
    exact ⟨hhunt, fun tail fs htail => decodeCall_hunt_drop fs hhunt htail⟩

/-- Settles O52: every move of the receiver ends in the state of the table. -/
theorem nextStateTable : Obligations.NextStateTable := fun s e rest h =>
  ⟨_, step_event h, (rxStep_move (setInputs rest s) e).rxState⟩

/-- Settles O10: `RxReset` is `resetRegs`. -/
theorem rxResetEffect : Obligations.RxResetEffect := fun _ _ => ⟨rfl, step_rxReset⟩

/-- Settles O25. -/
theorem closedAckEndsWindow : Obligations.ClosedAckEndsWindow := fun _ _ =>
  ⟨rfl, fun h => step_eq_exec_of_encode (i := .closedAck) h rfl rfl⟩

/-- Settles O26. -/
theorem closedNakMarksFrame : Obligations.ClosedNakMarksFrame := fun _ _ =>
  ⟨rfl, fun h => step_eq_exec_of_encode (i := .closedNak) h rfl rfl⟩

/-- Settles O27: a byte that no other row of CLOSED takes is the operand of a well-formed `CLOSED.other`. -/
theorem closedSwallowsOtherByte : Obligations.ClosedSwallowsOtherByte := by
  refine fun s b rest => ⟨rfl, fun h hb => ?_⟩
  have hw : (Instr.closedOther b).wellFormed = true := by simpa [Instr.wellFormed] using hb
  exact step_eq_exec_of_encode h hw rfl

/-- Settles O28: the four rows are `timeoutKeep`, and so is the step on a timeout. -/
theorem timeoutKeepsRegisters : Obligations.TimeoutKeepsRegisters := by
  intro s rest
  refine ⟨fun i hi => ?_, fun hs h => ?_⟩
  · simp only [List.mem_cons, List.not_mem_nil, or_false] at hi
    rcases hi with rfl | rfl | rfl | rfl <;> rfl
  · exact (step_event h).trans (congrArg Host.Outcome.next (rxStep_timeout (setInputs rest s) hs))

/-- Settles O29. -/
theorem timeoutClosesStatusWindow : Obligations.TimeoutClosesStatusWindow := fun s rest =>
  ⟨rfl, fun hs h =>
    (step_event h).trans (congrArg Host.Outcome.next (rxStep_timeout_closed (setInputs rest s) hs))⟩

end Sys2Proof.Machine
end

/-! ### The outcomes: the cause of each, and the state change of an error (R103, R109, R110) -/

section

namespace Sys2Proof.Machine

/-! ### The table of R103 -/

/-- The rows of R103, with R71 for a frame: when a step on `e` from `s` reports `o`. `None` is no report
(`rxOutput_eq_iff_reportCause`). -/
def reportCause (s : State) (e : RxEvent) : RxOut → Prop
  | .none => False
  | .frame cc p => s.rxState = .esc ∧ e = .byte ETX ∧ cc = s.rxCc ∧ p = s.rxBuf
  | .busReset => s.rxState = .ctrl ∧ e = .byte MDB_RESET
  | .decodeError .unexpectedControlCode b =>
    s.rxState = .ctrl ∧ e = .byte b ∧ b ∉ [STX, DATA, STATUSINFO, MDB_RESET, GSM_STATUSINFO]
  | .decodeError .unknownEscape b =>
    s.rxState = .esc ∧ e = .byte b ∧ b ∉ [DLE, ETX] ∧ s.cfg.escPolicy = .reject
  | .decodeError .payloadOverrun b =>
    e = .byte b ∧ hasRoom s.cfg s.rxBuf.length = false ∧
      (s.rxState = .body ∧ b ∉ [STX, DLE] ∨ s.rxState = .esc ∧ b = DLE)
  | .timeout => e = .timeout

/-- R109: "the error is output in the step of the byte that caused it". -/
theorem reportCause_decodeError_byte {s : State} {e : RxEvent} {kind : ErrorKind} {b : Byte}
    (h : reportCause s e (.decodeError kind b)) : e = .byte b := by
  cases kind with
  | unexpectedControlCode | unknownEscape =>
    obtain ⟨-, he, -⟩ := h
    exact he
  | payloadOverrun => exact h.1

/-! ### Every report has its cause -/

theorem overrun_of_appendOrOverrun {s : State} {v b : Byte} {o : RxOut}
    (ho : (appendOrOverrun v b s).outcomes = s.outcomes ++ [o]) (hne : o ≠ .none) :
    o = .decodeError .payloadOverrun b ∧ hasRoom s.cfg s.rxBuf.length = false := by
  cases hr : hasRoom s.cfg s.rxBuf.length with
  | true =>
    rw [appendOrOverrun_room s hr] at ho
    cases List.append_cancel_left ho
    exact absurd rfl hne
  | false =>
    rw [appendOrOverrun_full s hr] at ho
    cases List.append_cancel_left ho
    exact ⟨rfl, rfl⟩

theorem RxMove.reportCause {s t : State} {e : RxEvent} {o : RxOut} (m : RxMove s e t)
    (ho : t.outcomes = s.outcomes ++ [o]) (hne : o ≠ .none) : reportCause s e o := by
  cases m with
  | restart | huntDrop | accept | bodyDle | escIgnore | closeWindow | nak =>
    cases List.append_cancel_left ho
    exact absurd rfl hne
  | busReset h =>
    cases List.append_cancel_left ho
    exact ⟨h, rfl⟩
  | illegal h hb hd hs hg hm =>
    cases List.append_cancel_left ho
    exact ⟨h, rfl, by simp [hb, hd, hs, hg, hm]⟩
  | bodyLit h hb hd =>
    obtain ⟨rfl, hfull⟩ := overrun_of_appendOrOverrun ho hne
    exact ⟨rfl, hfull, .inl ⟨h, by simp [hb, hd]⟩⟩
  | escDle h =>
    obtain ⟨rfl, hfull⟩ := overrun_of_appendOrOverrun ho hne
    exact ⟨rfl, hfull, .inr ⟨h, rfl⟩⟩
  | escEtx h =>
    cases List.append_cancel_left ho
    exact ⟨h, rfl, rfl, rfl⟩
  | escReject h hd he hp =>
    cases List.append_cancel_left ho
    exact ⟨h, rfl, by simp [hd, he], hp⟩
  | silence | silenceClosed =>
    cases List.append_cancel_left ho
    rfl

/-! ### Every cause is reported -/

theorem rxStep_ctrl_unexpected {s : State} {b : Byte} (h : s.rxState = .ctrl)
    (hb : b ∉ [STX, DATA, STATUSINFO, MDB_RESET, GSM_STATUSINFO]) :
    rxStep (.byte b) s = raiseDecodeError .unexpectedControlCode b s := by
  simp only [List.mem_cons, List.not_mem_nil, or_false, not_or] at hb
  obtain ⟨hstx, hdata, hstatus, hreset, hgsm⟩ := hb
  exact rxStep_ctrl_illegal h (wellFormed_ctrlIllegal.mpr ⟨hstx, hdata, hstatus, hgsm, hreset⟩)

theorem rxStep_esc_unknown {s : State} {b : Byte} (h : s.rxState = .esc) (hb : b ∉ [DLE, ETX])
    (hp : s.cfg.escPolicy = .reject) : rxStep (.byte b) s = raiseDecodeError .unknownEscape b s := by
  have hw : (Instr.escOther b).wellFormed = true := wellFormed_escOther.mpr (by simpa using hb)
  have hstep : rxStep (.byte b) s = escOther b s := rxStep_byte_of_encode hw (by rw [h]; rfl)
  exact hstep.trans (Host.Outcome.next.inj (exec_escOther_reject hp b))

theorem rxStep_overrun {s : State} {b : Byte} (hfull : hasRoom s.cfg s.rxBuf.length = false)
    (h : s.rxState = .body ∧ b ∉ [STX, DLE] ∨ s.rxState = .esc ∧ b = DLE) :
    rxStep (.byte b) s = raiseDecodeError .payloadOverrun b s := by
  rcases h with ⟨hbody, hb⟩ | ⟨hesc, rfl⟩
  · obtain ⟨hstx, hdle⟩ : b ≠ STX ∧ b ≠ DLE := by simpa using hb
    exact (rxStep_body_literal hbody hstx hdle).trans (appendOrOverrun_full s hfull)
  · exact (rxStep_esc_dle hesc).trans (appendOrOverrun_full s hfull)

/-- R109, R110: the cause of an error or of `BusReset` makes the step the one shared entry, whatever the kind. -/
theorem rxStep_eq_raiseOutcome {s : State} {e : RxEvent} {o : RxOut}
    (herr : o = .busReset ∨ ∃ kind b, o = .decodeError kind b) (h : reportCause s e o) :
    rxStep e s = raiseOutcome o s := by
  rcases herr with rfl | ⟨kind, b, rfl⟩
  · obtain ⟨hctrl, rfl⟩ := h
    exact rxStep_ctrl_mdbReset hctrl
  · cases kind with
    | unexpectedControlCode =>
      obtain ⟨hctrl, rfl, hb⟩ := h
      exact rxStep_ctrl_unexpected hctrl hb
    | unknownEscape =>
      obtain ⟨hesc, rfl, hb, hp⟩ := h
      exact rxStep_esc_unknown hesc hb hp
    | payloadOverrun =>
      obtain ⟨rfl, hfull, hrow⟩ := h
      exact rxStep_overrun hfull hrow

theorem rxOutput_eq_of_rxStep {s : State} {e : RxEvent} {o : RxOut}
    (h : (rxStep e s).outcomes = s.outcomes ++ [o]) : rxOutput e s = o :=
  List.singleton_inj.mp (List.append_cancel_left ((rxStep_outcomes s e).symm.trans h))

theorem rxOutput_eq_of_reportCause {s : State} {e : RxEvent} {o : RxOut} (h : reportCause s e o) :
    rxOutput e s = o := by
  cases o with
  | none => exact h.elim
  | frame cc p =>
    obtain ⟨hesc, rfl, rfl, rfl⟩ := h
    exact rxOutput_eq_of_rxStep (congrArg State.outcomes (rxStep_esc_etx hesc))
  | busReset =>
    exact rxOutput_eq_of_rxStep (congrArg State.outcomes (rxStep_eq_raiseOutcome (.inl rfl) h))
  | decodeError kind b =>
    exact rxOutput_eq_of_rxStep (congrArg State.outcomes (rxStep_eq_raiseOutcome (.inr ⟨kind, b, rfl⟩) h))
  | timeout =>
    obtain rfl : e = .timeout := h
    exact rxOutput_timeout s

/-- R103: the list is complete, and each report is given exactly under its condition. -/
theorem rxOutput_eq_iff_reportCause {s : State} {e : RxEvent} {o : RxOut} (hne : o ≠ .none) :
    rxOutput e s = o ↔ reportCause s e o := by
  refine ⟨fun ho => ?_, rxOutput_eq_of_reportCause⟩
  exact (rxStep_move s e).reportCause (ho ▸ rxStep_outcomes s e) hne

/-! ### The entries that report nothing -/

theorem entryOutputs_eq_nil {inp : Input} (s : State) (h : isTx inp = true ∨ inp = .rxReset) :
    entryOutputs inp s = [] := by
  rcases h with h | rfl
  · obtain ⟨c, rfl⟩ := isTx_iff.mp h
    rfl
  · rfl

/-! ### The statements -/

/-- Settles O50: the rows of the table are those of `reportCause`; a command's entry has no outputs. -/
theorem outcomesAndTheirCauses : Obligations.OutcomesAndTheirCauses := by
  refine fun s rest => ⟨fun e h => ?_, fun inp hinp h => ?_⟩
  · have hcause {o : RxOut} (hne : o ≠ .none) :
        rxOutput e (setInputs rest s) = o ↔ reportCause (setInputs rest s) e o :=
      rxOutput_eq_iff_reportCause hne
    exact ⟨_, _, step_event h, rxStep_outcomes _ e, fun _ => hcause nofun, fun _ => hcause nofun,
      fun _ => hcause nofun, hcause nofun, hcause nofun, fun _ _ => hcause nofun⟩
  · refine ⟨_, step_eq_entryEffect h, ?_⟩
    rw [entryEffect_outcomes, entryOutputs_eq_nil _ hinp]
    exact List.append_nil s.outcomes

/-- Settles O51: the output has its cause, and from the cause the step is `raiseOutcome`. -/
theorem errorEntryStateChange : Obligations.ErrorEntryStateChange := by
  intro s t e o rest h ht ho herr
  cases (step_event h).symm.trans ht
  have hne : o ≠ .none := by rcases herr with rfl | ⟨kind, b, rfl⟩ <;> nofun
  have hcause := (rxStep_move (setInputs rest s) e).reportCause ho hne
  refine ⟨rxStep_eq_raiseOutcome herr hcause, fun kind b hkind => ?_⟩
  exact reportCause_decodeError_byte (hkind ▸ hcause)

end Sys2Proof.Machine
end

/-! ### Resets and hazards: what a hard reset writes, and what a stale escape, a body `02` and an overlong payload cost
(R121, R128, R131, R133, R135, R138) -/

section

namespace Sys2Proof

/-! ### A wire frame inside a wire frame (R128) -/

/-- R57, R128: `STX` is not stuffed, so behind the last `02` of a payload the bytes are those of another frame. -/
theorem wire_append_stx (cc c : Byte) (before after : List Byte) :
    wire cc (before ++ STX :: c :: after) = STX :: stuffAll (cc :: before) ++ wire c after := by
  simp [wire_eq, stuff_of_ne (show STX ≠ DLE by decide)]

/-- Behind the `STX` a wire frame holds another only where its code or payload does. -/
theorem stx_not_mem_stuffed {bs : List Byte} (h : STX ∉ bs) : STX ∉ stuffAll bs ++ [DLE, ETX] := by
  rw [List.mem_append, mem_stuffAll]
  exact not_or.mpr ⟨h, by decide⟩

end Sys2Proof

namespace Sys2Proof.Machine

/-! ### Runs of the machine over events -/

theorem runSteps_of_length {s : State} {es : List RxEvent} {rest : List Input} {n : Nat} (hn : es.length = n)
    (h : s.inputs = eventInputs es ++ rest) : runSteps n s = .next (rxRun es (setInputs rest s)) :=
  hn ▸ run_events es s h

theorem runSteps_wire {s : State} {cc : Byte} {p : List Byte} {rest : List Input}
    (h : s.inputs = eventInputs (byteEvents (wire cc p)) ++ rest) :
    runSteps (wire cc p).length s = .next (takeWire cc p (setInputs rest s)) :=
  runSteps_of_length (List.length_map _) h

/-! ### The escape of a wrong byte (R75, R133) -/

theorem rxStep_esc_ignored {s : State} {b : Byte} (h : s.rxState = .esc) (hb : b ∉ [DLE, ETX])
    (hp : s.cfg.escPolicy = .ignore) : rxStep (.byte b) s = out .none (goto .body s) := by
  have hw : (Instr.escOther b).wellFormed = true := wellFormed_escOther.mpr (by simpa using hb)
  have hstep : rxStep (.byte b) s = escOther b s := rxStep_byte_of_encode hw (by rw [h]; rfl)
  exact hstep.trans (Host.Outcome.next.inj (exec_escOther_ignore hp b))

/-- R133: the pair vanishes from the payload. -/
theorem rxRun_body_ignored_escape {s : State} {b : Byte} (h : s.rxState = .body) (hb : b ∉ [DLE, ETX])
    (hp : s.cfg.escPolicy = .ignore) :
    rxRun (byteEvents [DLE, b]) s = { s with outcomes := s.outcomes ++ [.none, .none] } := by
  rw [rxRun_byteEvents_cons, rxStep_body_dle h, rxRun_byteEvents_cons,
    rxStep_esc_ignored (s := out .none (goto .esc s)) rfl hb hp]
  simp [byteEvents, rxRun, out, goto, h]

/-! ### A wire frame met in ESC (R74, R131) -/

/-- R74, R65: with `reject` the `STX` is reported, and the rest of the frame is dropped in HUNT. -/
theorem takeWire_esc_reject {s : State} {cc : Byte} {p : List Byte} (h : s.rxState = .esc) (hp : STX ∉ cc :: p)
    (hpol : s.cfg.escPolicy = .reject) :
    takeWire cc p s =
      { s with rxState := .hunt, rxCc := 0x00#8, rxBuf := [],
               outcomes := s.outcomes ++ [.decodeError .unknownEscape STX] ++
                 List.replicate ((wire cc p).length - 1) .none } := by
  rw [takeWire, wire_eq, rxRun_byteEvents_cons, rxStep_esc_unknown h (by decide) hpol,
    rxRun_hunt_drop rfl (stx_not_mem_stuffed hp)]
  rfl

/-- R74, R75: with `ignore` the `STX` vanishes, and code and payload go on with the stale frame. -/
theorem takeWire_esc_ignore {s : State} {cc : Byte} {p : List Byte} (h : s.rxState = .esc) (hp : STX ∉ cc :: p)
    (hpol : s.cfg.escPolicy = .ignore) (hm : withinMax s.cfg (s.rxBuf ++ cc :: p).length = true) :
    takeWire cc p s =
      { s with rxState := .closed, rxBuf := s.rxBuf ++ cc :: p,
               outcomes := s.outcomes ++ List.replicate ((wire cc p).length - 1) .none ++
                 [.frame s.rxCc (s.rxBuf ++ cc :: p)] } := by
  have hlen : (wire cc p).length - 1 = (cc :: p).length + (cc :: p).count DLE + 1 + 1 := by
    rw [length_wire, List.length_cons]
    omega
  rw [List.length_append] at hm
  rw [hlen, takeWire, wire_eq, rxRun_byteEvents_cons, rxStep_esc_ignored h (by decide) hpol,
    rxRun_body_frame (s := out .none (goto .body s)) rfl hp hm]
  simp [out, goto, List.replicate_succ]

/-! ### Stuffed bytes never leave the receiver in ESC (R41, R102) -/

theorem rxStep_rxState (e : RxEvent) (s : State) :
    (rxStep e s).rxState = nextState s.cfg.escPolicy (hasRoom s.cfg s.rxBuf.length) s.rxState e :=
  (rxStep_move s e).rxState

theorem rxStep_literal_not_esc {s : State} {b : Byte} (h : s.rxState ≠ .esc) (hb : b ≠ DLE) :
    (rxStep (.byte b) s).rxState ≠ .esc := by
  have hb' : b ≠ 0x10#8 := hb
  rw [rxStep_rxState]
  cases hs : s.rxState with
  | esc => exact absurd hs h
  | hunt | ctrl | body | closed =>
    simp only [nextState, if_neg hb']
    (repeat' split) <;> exact nofun

/-- The first `DLE` of a pair opens an escape in BODY and goes to HUNT from elsewhere; the second closes it. -/
theorem rxRun_pair_not_esc {s : State} (h : s.rxState ≠ .esc) :
    (rxRun (byteEvents [DLE, DLE]) s).rxState ≠ .esc := by
  rw [rxRun_byteEvents_cons]
  cases hs : s.rxState with
  | esc => exact absurd hs h
  | body =>
    rw [rxStep_body_dle hs, rxRun_byteEvents_cons, rxStep_esc_dle rfl]
    change (appendOrOverrun DLE DLE _).rxState ≠ .esc
    rw [appendOrOverrun_rxState]
    split <;> exact nofun
  | hunt | ctrl | closed =>
    have hfirst : (rxStep (.byte DLE) s).rxState = .hunt := by
      rw [rxStep_rxState, hs]
      rfl
    rw [rxRun_hunt_drop (bs := [DLE]) hfirst (by decide)]
    exact fun hesc => nomatch hfirst.symm.trans hesc

theorem rxRun_stuff_not_esc {s : State} (b : Byte) (h : s.rxState ≠ .esc) :
    (rxRun (byteEvents (stuff b)) s).rxState ≠ .esc := by
  by_cases hb : b = DLE
  · rw [hb, stuff_dle]
    exact rxRun_pair_not_esc h
  · rw [stuff_of_ne hb]
    exact rxStep_literal_not_esc h hb

theorem rxRun_stuffAll_not_esc {s : State} (bs : List Byte) (h : s.rxState ≠ .esc) :
    (rxRun (byteEvents (stuffAll bs)) s).rxState ≠ .esc := by
  induction bs generalizing s with
  | nil => exact h
  | cons b bs ih =>
    rw [stuffAll_cons, rxRun_byteEvents_append]
    exact ih (rxRun_stuff_not_esc b h)

/-! ### A body `02` (R67, R128) -/

/-- R128: whatever stands before the last `02` of a payload, the receiver takes the frame that begins there outside
ESC, as any other. -/
theorem runSteps_wire_bodyStx {s : State} {cc c : Byte} {before after : List Byte} {rest : List Input}
    (h : s.rxState ≠ .esc)
    (hin : s.inputs = eventInputs (byteEvents (wire cc (before ++ STX :: c :: after))) ++ rest) :
    ∃ (u : State) (log : List RxOut), u.rxState ≠ .esc ∧ u.cfg = s.cfg ∧ u.outcomes = s.outcomes ++ log ∧
      runSteps (wire cc (before ++ STX :: c :: after)).length s = .next (takeWire c after u) := by
  have hstart : (rxStep (.byte STX) (setInputs rest s)).rxState ≠ .esc := rxStep_literal_not_esc h (by decide)
  refine ⟨rxRun (byteEvents (STX :: stuffAll (cc :: before))) (setInputs rest s), _,
    rxRun_stuffAll_not_esc _ hstart, rxRun_cfg _ _, rxRun_outcomes _ _, ?_⟩
  rw [runSteps_wire hin, takeWire, wire_append_stx, rxRun_byteEvents_append]
  rfl

/-! ### An overlong payload (R69, R70, R135) -/

/-- R69, R70: without room the stuffed form of a byte is reported at its last byte, by that byte. -/
theorem rxRun_body_stuff_full {s : State} {b : Byte} (h : s.rxState = .body) (hb : b ≠ STX)
    (hfull : hasRoom s.cfg s.rxBuf.length = false) :
    rxRun (byteEvents (stuff b)) s =
      { s with rxState := .hunt, rxCc := 0x00#8, rxBuf := [],
               outcomes := s.outcomes ++ List.replicate (if b = DLE then 1 else 0) .none ++
                 [.decodeError .payloadOverrun b] } := by
  by_cases hd : b = DLE
  · rw [if_pos hd, hd, stuff_dle, rxRun_byteEvents_cons, rxStep_body_dle h, rxRun_byteEvents_cons,
      rxStep_overrun (s := out .none (goto .esc s)) hfull (.inr ⟨rfl, rfl⟩)]
    rfl
  · rw [if_neg hd, stuff_of_ne hd, rxRun_byteEvents_cons, rxStep_overrun hfull (.inl ⟨h, by simp [hb, hd]⟩)]
    simp [byteEvents, rxRun, raiseDecodeError, raiseOutcome_eq]

/-- R135: the rest of a frame whose payload does not fit, from the payload's first byte on. -/
theorem rxRun_body_overrun {s : State} {b : Byte} {front back : List Byte} (h : s.rxState = .body)
    (hp : STX ∉ front ++ b :: back) (hmax : s.cfg.payloadMax = some (s.rxBuf.length + front.length)) :
    rxRun (byteEvents (stuffAll (front ++ b :: back) ++ [DLE, ETX])) s =
      { s with rxState := .hunt, rxCc := 0x00#8, rxBuf := [],
               outcomes := s.outcomes ++
                 List.replicate (front.length + front.count DLE + (if b = DLE then 1 else 0)) .none ++
                 [.decodeError .payloadOverrun b] ++ List.replicate (back.length + back.count DLE + 2) .none } := by
  simp only [List.mem_append, List.mem_cons, not_or] at hp
  obtain ⟨hfront, hb, hback⟩ := hp
  have hfit : withinMax s.cfg (s.rxBuf.length + front.length) = true :=
    (withinMax_iff _ _).mpr (.inr ⟨_, hmax, Nat.le_refl _⟩)
  have hfull : hasRoom s.cfg (s.rxBuf ++ front).length = false := by
    simp [hasRoom, hmax]
  rw [stuffAll_append, stuffAll_cons, List.append_assoc, List.append_assoc, rxRun_byteEvents_append,
    rxRun_body_stuffAll h hfront hfit, rxRun_byteEvents_append, rxRun_body_stuff_full ?_ (Ne.symm hb) ?_,
    rxRun_hunt_drop rfl (stx_not_mem_stuffed hback)]
  · simp [← List.replicate_append_replicate]
  · exact h
  · exact hfull

/-- R135: met outside ESC, the overlong frame is lost whole. -/
theorem takeWire_overlong {s : State} {cc b : Byte} {front back : List Byte} (h : s.rxState ≠ .esc)
    (hc : cc ∈ deliverable) (hp : STX ∉ front ++ b :: back) (hmax : s.cfg.payloadMax = some front.length) :
    takeWire cc (front ++ b :: back) s =
      { s with rxState := .hunt, rxCc := 0x00#8, rxBuf := [], rxRejected := false,
               outcomes := s.outcomes ++
                 List.replicate (2 + front.length + front.count DLE + (if b = DLE then 1 else 0)) .none ++
                 [.decodeError .payloadOverrun b] ++ List.replicate (back.length + back.count DLE + 2) .none } := by
  have hmax' : s.cfg.payloadMax = some (0 + front.length) := by rw [Nat.zero_add, hmax]
  have hlen : 2 + front.length + front.count DLE + (if b = DLE then 1 else 0) =
      front.length + front.count DLE + (if b = DLE then 1 else 0) + 1 + 1 := by omega
  rw [hlen, takeWire, wire_eq, rxRun_byteEvents_cons, rxStep_stx h, stuffAll_cons, stuff_of_deliverable hc,
    List.append_assoc, List.singleton_append, rxRun_byteEvents_cons, rxStep_ctrl_accepted rfl hc,
    rxRun_body_overrun (s := acceptCode cc (startFrame s)) rfl hp hmax', acceptCode_eq, startFrame_eq]
  simp [List.replicate_succ]

/-! ### The statements -/

/-- Settles O23: the two bytes are an escape that is ignored. -/
theorem ignoredEscapeLeavesNoTrace : Obligations.IgnoredEscapeLeavesNoTrace := by
  intro s b rest h hp hd he hin
  have hb : b ∉ [DLE, ETX] := by simp [DLE, ETX, hd, he]
  have hrun := rxRun_body_ignored_escape (s := setInputs rest s) h hb hp
  exact (run_events _ s hin).trans (congrArg Host.Outcome.next hrun)

/-- Settles O44: the frame that begins at the last `02` is accepted. -/
theorem bodyStxDeliversWrongFrame : Obligations.BodyStxDeliversWrongFrame := by
  intro s cc c before after rest h hc hafter hm hin
  obtain ⟨u, log, hu, hcfg, hlog, hrun⟩ := runSteps_wire_bodyStx h hin
  have htake := takeWire_accepted hu hc hafter (hcfg ▸ hm)
  refine ⟨_, log, hrun, ?_, ?_⟩
  · rw [htake]
    rfl
  · rw [htake, ← hlog]
    rfl

/-- Settles O60: the frame that begins at the last `02` is reported at its control code, and its rest is dropped. -/
theorem bodyStxRaisesFalseReport : Obligations.BodyStxRaisesFalseReport := by
  intro s cc c before after rest h hc hafter hin
  obtain ⟨u, log, hu, -, hlog, hrun⟩ := runSteps_wire_bodyStx h hin
  have hcode : rxStep (.byte c) (startFrame u) =
      raiseOutcome (if c = MDB_RESET then .busReset else .decodeError .unexpectedControlCode c) (startFrame u) := by
    by_cases hreset : c = MDB_RESET
    · rw [if_pos hreset, hreset]
      exact rxStep_ctrl_mdbReset rfl
    · rw [if_neg hreset]
      refine rxStep_ctrl_unexpected rfl ?_
      simp only [List.mem_cons, List.not_mem_nil, or_false, not_or] at hc ⊢
      obtain ⟨hdata, hstatus, hgsm, hstx⟩ := hc
      exact ⟨hstx, hdata, hstatus, hreset, hgsm⟩
  have htake := takeWire_dropped hu hafter hcode
  refine ⟨_, log, hrun, ?_, ?_⟩
  · rw [htake]
    rfl
  · rw [htake, ← hlog]
    rfl

/-- Settles O45: silence keeps ESC, and the frame is met there, policy by policy. -/
theorem staleEscapeCostsAFrame : Obligations.StaleEscapeCostsAFrame := by
  intro s n cc p rest h hp hin
  have hrun : runSteps (n + (wire cc p).length) s =
      .next (takeWire cc p { s with inputs := rest, outcomes := s.outcomes ++ List.replicate n .timeout }) := by
    rw [runSteps_of_length (by simp [byteEvents]) hin, rxRun_append, rxRun_silence]
    simp [h, takeWire, setInputs]
  rw [hrun]
  exact ⟨fun hpol => congrArg Host.Outcome.next (takeWire_esc_reject h hp hpol),
    fun hpol hm => congrArg Host.Outcome.next (takeWire_esc_ignore h hp hpol hm)⟩

/-- Settles O46: `ENCODE` emits the wire frame whatever its length, and the receiver loses it whole. -/
theorem overlongPayloadIsLostWhole : Obligations.OverlongPayloadIsLostWhole := by
  intro s cc b front back rest hc hmax h hp
  refine ⟨⟨_, execEncode_eq cc _ s, rfl⟩, fun hin => ?_⟩
  exact (runSteps_wire hin).trans
    (congrArg Host.Outcome.next (takeWire_overlong (s := setInputs rest s) h hc hp hmax))

/-- Settles O11: a hard reset is `resetRegs`. -/
theorem hardResetEffect : Obligations.HardResetEffect := fun _ _ => step_hardReset

/-- Settles O54: an idle step and an entry's effect are next states, and so is every instruction's meaning. -/
theorem blockNeverStops : Obligations.BlockNeverStops := by
  refine ⟨fun s => ?_, fun i s => ?_⟩
  · cases h : s.inputs with
    | nil => exact ⟨s, step_idle h⟩
    | cons inp rest => exact ⟨_, step_eq_entryEffect h⟩
  · cases i <;> exact ⟨_, rfl⟩

end Sys2Proof.Machine
end
